-- ==== Sys2Proof/Word.lean ====
section
/-! DEFINITION. The word types of the machine (00_scope.md R4, R7): a byte, a 4-bit field, a 12-bit address and the
16-bit instruction word, and the numerals the spec gives their sizes by. -/

namespace Sys2Proof

/-- A register, a timer or a byte of memory (R4 REG_BITS): 8 bits, unsigned. -/
abbrev Byte := BitVec 8

/-- A 4-bit field of the instruction word: a register index, a row count or a key index (30_encoding.md R52). -/
abbrev Nibble := BitVec 4

/-- A program-counter value or an effective address (R4 ADDR_BITS, PC_BITS): 12 bits, so arithmetic on it is
modulo 4096 (20_memory.md R32, 40_cycle_and_control.md R74). -/
abbrev Addr := BitVec 12

/-- The 16-bit instruction word `op` (30_encoding.md R50), and the width of the index register (10_state.md R12). -/
abbrev Word := BitVec 16

/-- A framebuffer row number (R4 DISP_H = 32): 5 bits, so arithmetic on it wraps at the last row (43_display.md R121). -/
abbrev Row := BitVec 5

/-- A framebuffer column number (R4 DISP_W = 64): 6 bits, so arithmetic on it wraps at the last column (R121). -/
abbrev Col := BitVec 6

end Sys2Proof
end

