-- ==== Sys2Proof/Config.lean ====
section
/-! DEFINITION. What an implementation fixes (00_scope.md R4, R5) and the free values of the environment
(41_load_and_alu.md R104, 60_exceptions.md R164, 70_reset_and_hazards.md R195). -/

namespace Sys2Proof

namespace Config

/-- MEM_SIZE (R4): the bytes of the one memory. -/
abbrev memSize : Nat := 4096

/-- FONT_END + 1 (R4): the number of font bytes, which are the addresses 0x000 to 0x04F. -/
abbrev fontSize : Nat := 80

/-- FONT_STRIDE (R4): the bytes of one digit's glyph. -/
abbrev fontStride : Nat := 5

/-- PROG_BASE (R4): the load address of the image and the reset value of the program counter. -/
abbrev progBase : Addr := 0x200#12

/-- PROG_MAX (R4): the longest program image. -/
abbrev progMax : Nat := 3584

/-- HOLD_MS (R4): the shortest time in ms the audio stays on after the sound timer was last set. -/
abbrev holdMs : Nat := 50

/-- DISP_W and DISP_H (R4): the framebuffer's columns and rows. -/
abbrev dispW : Nat := 64

/-- See `dispW`. -/
abbrev dispH : Nat := 32

/-- The digits 0 to 3 of the default FONT, digit by digit (20_memory.md R34).
PRESUMED (GK1, log 9); unsafe: the source gives no font byte. -/
def glyphs0to3 : List Byte :=
  [0xF0#8, 0x90#8, 0x90#8, 0x90#8, 0xF0#8] ++ [0x20#8, 0x60#8, 0x20#8, 0x20#8, 0x70#8] ++
  [0xF0#8, 0x10#8, 0xF0#8, 0x80#8, 0xF0#8] ++ [0xF0#8, 0x10#8, 0xF0#8, 0x10#8, 0xF0#8]

/-- The digits 4 to 7 of the default FONT (20_memory.md R34). PRESUMED (GK1, log 9); unsafe. -/
def glyphs4to7 : List Byte :=
  [0x90#8, 0x90#8, 0xF0#8, 0x10#8, 0x10#8] ++ [0xF0#8, 0x80#8, 0xF0#8, 0x10#8, 0xF0#8] ++
  [0xF0#8, 0x80#8, 0xF0#8, 0x90#8, 0xF0#8] ++ [0xF0#8, 0x10#8, 0x20#8, 0x40#8, 0x40#8]

/-- The digits 8 to B of the default FONT (20_memory.md R34). PRESUMED (GK1, log 9); unsafe. -/
def glyphs8toB : List Byte :=
  [0xF0#8, 0x90#8, 0xF0#8, 0x90#8, 0xF0#8] ++ [0xF0#8, 0x90#8, 0xF0#8, 0x10#8, 0xF0#8] ++
  [0xF0#8, 0x90#8, 0xF0#8, 0x90#8, 0x90#8] ++ [0xE0#8, 0x90#8, 0xE0#8, 0x90#8, 0xE0#8]

/-- The digits C to F of the default FONT (20_memory.md R34). PRESUMED (GK1, log 9); unsafe. -/
def glyphsCtoF : List Byte :=
  [0xF0#8, 0x80#8, 0x80#8, 0x80#8, 0xF0#8] ++ [0xE0#8, 0x90#8, 0x90#8, 0x90#8, 0xE0#8] ++
  [0xF0#8, 0x80#8, 0xF0#8, 0x80#8, 0xF0#8] ++ [0xF0#8, 0x80#8, 0xF0#8, 0x80#8, 0x80#8]

/-- The default FONT (20_memory.md R34): row j of digit d is byte 5 d + j. -/
def defaultFontBytes : List Byte :=
  glyphs0to3 ++ glyphs4to7 ++ glyphs8toB ++ glyphsCtoF

/-- The default FONT as a table of exactly 80 bytes. -/
def defaultFont : Vector Byte fontSize :=
  ⟨⟨defaultFontBytes⟩, by decide⟩

/-- RND (R5, 41_load_and_alu.md R104): the byte the environment answers to the k-th request of the run.
A free value "under no law": it has no body, so a proof holds for every answer. Log 4; safe. -/
opaque rndByte : Nat → Byte

/-- NOW (R5, 60_exceptions.md R164): how many ms the clock has advanced at its k-th reading since the reading before.
A free value: `now()` is "constrained only to be no smaller than the previous one". Log 5; safe. -/
opaque timeStep : Nat → Nat

/-- The key events (key, pressed) that the environment pushes of its own accord before the k-th tick of the run, in their order
(60_exceptions.md R163). A free value: the spec "assumes nothing about key presses" (70_reset_and_hazards.md R195), so a
proof holds for every answer, none, one or many. Log 36; safe. -/
opaque keyArrivals : Nat → List (Nibble × Bool)

end Config

/-- FONT_WRITE_MODE (R5): what a store into 0x000 to 0x04F does (20_memory.md R35). -/
inductive FontWriteMode where
  | ram
  | ignore
  | fault
  deriving DecidableEq, Repr

/-- KEY_INDEX_OOR (R5): what Ex9E and ExA1 do when V[x] is above 15 (44_keypad_and_timers.md R134). -/
inductive KeyIndexMode where
  | fault
  | mask
  | released
  deriving DecidableEq, Repr

/-- The parameters the source leaves open and the spec lets a model take as arguments (00_scope.md R5).
They are fixed for a machine: no step changes them. Log 1. -/
structure Params where
  /-- STACK_DEPTH: none is the unbounded stack (10_state.md R14). -/
  stackDepth : Option Nat
  /-- FONT_WRITE_MODE (20_memory.md R35). -/
  fontWrite : FontWriteMode
  /-- KEY_INDEX_OOR (44_keypad_and_timers.md R134). -/
  keyOor : KeyIndexMode
  /-- FONT: the glyph bytes that reset loads at address 0 (20_memory.md R33, R34). -/
  font : Vector Byte Config.fontSize
  deriving DecidableEq, Repr

/-- The default column of R5: unbounded stack, `ram`, `fault`, the font of 20_memory.md R34. Log 30. -/
def Params.default : Params :=
  { stackDepth := none, fontWrite := .ram, keyOor := .fault, font := Config.defaultFont }

end Sys2Proof
end

