-- ==== Sys2Proof/Syntax.lean ====
section
/-! DEFINITION. The 34 instructions of 30_encoding.md R53, one constructor per row of spec/opcode_table.json, in the
table's order. An operand has exactly the width of its field (R52), so a term of Instr cannot carry an operand
the encoding does not admit. -/

namespace Sys2Proof

/-- One instruction. `x` and `y` are register indices, `n` a row count, `nn` an immediate byte, `nnn` an address. -/
inductive Instr where
  /-- 00E0 CLS (R120) -/
  | cls
  /-- 00EE RET (R79) -/
  | ret
  /-- 1nnn JP nnn (R77) -/
  | jp (nnn : Addr)
  /-- 2nnn CALL nnn (R78) -/
  | call (nnn : Addr)
  /-- 3xnn SE Vx, nn (R81) -/
  | seImm (x : Nibble) (nn : Byte)
  /-- 4xnn SNE Vx, nn (R82) -/
  | sneImm (x : Nibble) (nn : Byte)
  /-- 5xy0 SE Vx, Vy (R83) -/
  | seReg (x y : Nibble)
  /-- 6xnn LD Vx, nn (R92) -/
  | ldImm (x : Nibble) (nn : Byte)
  /-- 7xnn ADD Vx, nn (R93) -/
  | addImm (x : Nibble) (nn : Byte)
  /-- 8xy0 LD Vx, Vy (R94) -/
  | ldReg (x y : Nibble)
  /-- 8xy1 OR Vx, Vy (R95) -/
  | orReg (x y : Nibble)
  /-- 8xy2 AND Vx, Vy (R96) -/
  | andReg (x y : Nibble)
  /-- 8xy3 XOR Vx, Vy (R97) -/
  | xorReg (x y : Nibble)
  /-- 8xy4 ADD Vx, Vy (R98) -/
  | addReg (x y : Nibble)
  /-- 8xy5 SUB Vx, Vy (R99) -/
  | subReg (x y : Nibble)
  /-- 8xy6 SHR Vx (R100); the y field is decoded and ignored (R55) -/
  | shr (x y : Nibble)
  /-- 8xy7 SUBN Vx, Vy (R101) -/
  | subn (x y : Nibble)
  /-- 8xyE SHL Vx (R102); the y field is decoded and ignored (R55) -/
  | shl (x y : Nibble)
  /-- 9xy0 SNE Vx, Vy (R84) -/
  | sneReg (x y : Nibble)
  /-- Annn LD I, nnn (R111) -/
  | ldI (nnn : Addr)
  /-- Bnnn JP V0, nnn (R80); bits 11:8 are the top of nnn, never a register (R55) -/
  | jpV0 (nnn : Addr)
  /-- Cxnn RND Vx, nn (R103) -/
  | rnd (x : Nibble) (nn : Byte)
  /-- Dxyn DRW Vx, Vy, n (R121) -/
  | drw (x y n : Nibble)
  /-- Ex9E SKP Vx (R132) -/
  | skp (x : Nibble)
  /-- ExA1 SKNP Vx (R133) -/
  | sknp (x : Nibble)
  /-- Fx07 LD Vx, DT (R139) -/
  | ldVxDt (x : Nibble)
  /-- Fx0A LD Vx, K (R135) -/
  | ldVxK (x : Nibble)
  /-- Fx15 LD DT, Vx (R140) -/
  | ldDtVx (x : Nibble)
  /-- Fx18 LD ST, Vx (R141) -/
  | ldStVx (x : Nibble)
  /-- Fx1E ADD I, Vx (R112) -/
  | addI (x : Nibble)
  /-- Fx29 LD F, Vx (R113) -/
  | ldF (x : Nibble)
  /-- Fx33 LD B, Vx (R114) -/
  | ldB (x : Nibble)
  /-- Fx55 LD [I], Vx (R115) -/
  | ldMemVx (x : Nibble)
  /-- Fx65 LD Vx, [I] (R117) -/
  | ldVxMem (x : Nibble)
  deriving DecidableEq, Repr

end Sys2Proof
end

