-- ==== Sys2Proof/WellFormed.lean ====
section
/-! DEFINITION. What raw data the machine accepts: a legal instruction word (30_encoding.md R53, R56), the two bytes of
an instruction (R50), and a program image (70_reset_and_hazards.md R181). Every term of Instr is well-formed as it
stands: its operands carry the widths of R52 in their types, so there is no check on it to fail. -/

namespace Sys2Proof

/-- One row of the opcode map: a word `op` selects it when `op AND mask = bits` (R53). -/
structure OpcodeRow where
  mnemonic : String
  mask : Word
  bits : Word
  deriving DecidableEq, Repr

/-- The word selects the row (R53). -/
def OpcodeRow.selects (r : OpcodeRow) (op : Word) : Bool :=
  (op &&& r.mask) == r.bits

/-- Rows 1 to 9 of R53. -/
def opcodeRows1to9 : List OpcodeRow :=
  [⟨"CLS", 0xFFFF#16, 0x00E0#16⟩, ⟨"RET", 0xFFFF#16, 0x00EE#16⟩, ⟨"JP_nnn", 0xF000#16, 0x1000#16⟩,
   ⟨"CALL_nnn", 0xF000#16, 0x2000#16⟩, ⟨"SE_Vx__nn", 0xF000#16, 0x3000#16⟩, ⟨"SNE_Vx__nn", 0xF000#16, 0x4000#16⟩,
   ⟨"SE_Vx__Vy", 0xF00F#16, 0x5000#16⟩, ⟨"LD_Vx__nn", 0xF000#16, 0x6000#16⟩, ⟨"ADD_Vx__nn", 0xF000#16, 0x7000#16⟩]

/-- Rows 10 to 19 of R53. -/
def opcodeRows10to19 : List OpcodeRow :=
  [⟨"LD_Vx__Vy", 0xF00F#16, 0x8000#16⟩, ⟨"OR_Vx__Vy", 0xF00F#16, 0x8001#16⟩, ⟨"AND_Vx__Vy", 0xF00F#16, 0x8002#16⟩,
   ⟨"XOR_Vx__Vy", 0xF00F#16, 0x8003#16⟩, ⟨"ADD_Vx__Vy", 0xF00F#16, 0x8004#16⟩, ⟨"SUB_Vx__Vy", 0xF00F#16, 0x8005#16⟩,
   ⟨"SHR_Vx", 0xF00F#16, 0x8006#16⟩, ⟨"SUBN_Vx__Vy", 0xF00F#16, 0x8007#16⟩, ⟨"SHL_Vx", 0xF00F#16, 0x800E#16⟩,
   ⟨"SNE_Vx__Vy", 0xF00F#16, 0x9000#16⟩]

/-- Rows 20 to 25 of R53. -/
def opcodeRows20to25 : List OpcodeRow :=
  [⟨"LD_I__nnn", 0xF000#16, 0xA000#16⟩, ⟨"JP_V0__nnn", 0xF000#16, 0xB000#16⟩, ⟨"RND_Vx__nn", 0xF000#16, 0xC000#16⟩,
   ⟨"DRW_Vx__Vy__n", 0xF000#16, 0xD000#16⟩, ⟨"SKP_Vx", 0xF0FF#16, 0xE09E#16⟩, ⟨"SKNP_Vx", 0xF0FF#16, 0xE0A1#16⟩]

/-- Rows 26 to 34 of R53. -/
def opcodeRows26to34 : List OpcodeRow :=
  [⟨"LD_Vx__DT", 0xF0FF#16, 0xF007#16⟩, ⟨"LD_Vx__K", 0xF0FF#16, 0xF00A#16⟩, ⟨"LD_DT__Vx", 0xF0FF#16, 0xF015#16⟩,
   ⟨"LD_ST__Vx", 0xF0FF#16, 0xF018#16⟩, ⟨"ADD_I__Vx", 0xF0FF#16, 0xF01E#16⟩, ⟨"LD_F__Vx", 0xF0FF#16, 0xF029#16⟩,
   ⟨"LD_B__Vx", 0xF0FF#16, 0xF033#16⟩, ⟨"LD__I___Vx", 0xF0FF#16, 0xF055#16⟩, ⟨"LD_Vx___I", 0xF0FF#16, 0xF065#16⟩]

/-- The opcode map of R53, rows 1 to 34. -/
def opcodeRows : List OpcodeRow :=
  opcodeRows1to9 ++ opcodeRows10to19 ++ opcodeRows20to25 ++ opcodeRows26to34

/-- A word is legal when some row of R53 selects it; every other word is illegal (R56). -/
def legalWord (op : Word) : Bool :=
  opcodeRows.any (fun r => r.selects op)

/-- The bytes of one instruction: exactly two (R50), the first the high byte of a legal word (20_memory.md R36). -/
def legalInstrBytes : List Byte → Bool
  | [b0, b1] => legalWord (b0 ++ b1)
  | _ => false

/-- A program image reset accepts: at most 3584 bytes (70_reset_and_hazards.md R181). -/
def legalImage (image : List Byte) : Bool :=
  decide (image.length ≤ Config.progMax)

end Sys2Proof
end

