-- ==== Sys2Proof/Decode.lean ====
section
/-! DEFINITION. Decoding (30_encoding.md R50 to R57), total on any bytes and rejecting by name, and the encoder
written from the same patterns of R53. -/

namespace Sys2Proof

/-- The family selector `f = op[15:12]` (00_scope.md R7). -/
def opF (op : Word) : Nibble := op.extractLsb' 12 4

/-- `x = op[11:8]` (R52). -/
def opX (op : Word) : Nibble := op.extractLsb' 8 4

/-- `y = op[7:4]` (R52). -/
def opY (op : Word) : Nibble := op.extractLsb' 4 4

/-- `n = op[3:0]` (R52). -/
def opN (op : Word) : Nibble := op.extractLsb' 0 4

/-- `nn = op[7:0]` (R52). -/
def opNN (op : Word) : Byte := op.extractLsb' 0 8

/-- `nnn = op[11:0]` (R52). -/
def opNNN (op : Word) : Addr := op.extractLsb' 0 12

/-- Family 0: two whole words, everything else illegal (R54). -/
def decode0 (op : Word) : Option Instr :=
  if op = 0x00E0#16 then some .cls
  else if op = 0x00EE#16 then some .ret
  else none

/-- Family 8: `op[3:0]` selects among nine operations (R54). -/
def decode8 (op : Word) : Option Instr :=
  if opN op = 0x0#4 then some (.ldReg (opX op) (opY op))
  else if opN op = 0x1#4 then some (.orReg (opX op) (opY op))
  else if opN op = 0x2#4 then some (.andReg (opX op) (opY op))
  else if opN op = 0x3#4 then some (.xorReg (opX op) (opY op))
  else if opN op = 0x4#4 then some (.addReg (opX op) (opY op))
  else if opN op = 0x5#4 then some (.subReg (opX op) (opY op))
  else if opN op = 0x6#4 then some (.shr (opX op) (opY op))
  else if opN op = 0x7#4 then some (.subn (opX op) (opY op))
  else if opN op = 0xE#4 then some (.shl (opX op) (opY op))
  else none

/-- Family E: `op[7:0]` is 0x9E or 0xA1 (R54). -/
def decodeE (op : Word) : Option Instr :=
  if opNN op = 0x9E#8 then some (.skp (opX op))
  else if opNN op = 0xA1#8 then some (.sknp (opX op))
  else none

/-- Family F: `op[7:0]` selects among nine operations (R54). -/
def decodeF (op : Word) : Option Instr :=
  if opNN op = 0x07#8 then some (.ldVxDt (opX op))
  else if opNN op = 0x0A#8 then some (.ldVxK (opX op))
  else if opNN op = 0x15#8 then some (.ldDtVx (opX op))
  else if opNN op = 0x18#8 then some (.ldStVx (opX op))
  else if opNN op = 0x1E#8 then some (.addI (opX op))
  else if opNN op = 0x29#8 then some (.ldF (opX op))
  else if opNN op = 0x33#8 then some (.ldB (opX op))
  else if opNN op = 0x55#8 then some (.ldMemVx (opX op))
  else if opNN op = 0x65#8 then some (.ldVxMem (opX op))
  else none

/-- The decoding procedure of R54: a pure function of the 16-bit word; none for every word no row of R53 matches. -/
def decode (op : Word) : Option Instr :=
  if opF op = 0x0#4 then decode0 op
  else if opF op = 0x1#4 then some (.jp (opNNN op))
  else if opF op = 0x2#4 then some (.call (opNNN op))
  else if opF op = 0x3#4 then some (.seImm (opX op) (opNN op))
  else if opF op = 0x4#4 then some (.sneImm (opX op) (opNN op))
  else if opF op = 0x5#4 then (if opN op = 0#4 then some (.seReg (opX op) (opY op)) else none)
  else if opF op = 0x6#4 then some (.ldImm (opX op) (opNN op))
  else if opF op = 0x7#4 then some (.addImm (opX op) (opNN op))
  else if opF op = 0x8#4 then decode8 op
  else if opF op = 0x9#4 then (if opN op = 0#4 then some (.sneReg (opX op) (opY op)) else none)
  else if opF op = 0xA#4 then some (.ldI (opNNN op))
  else if opF op = 0xB#4 then some (.jpV0 (opNNN op))
  else if opF op = 0xC#4 then some (.rnd (opX op) (opNN op))
  else if opF op = 0xD#4 then some (.drw (opX op) (opY op) (opN op))
  else if opF op = 0xE#4 then decodeE op
  else decodeF op

/-- Why bytes are no instruction. -/
inductive DecodeReject where
  /-- Fewer than the two bytes of an instruction (R50). -/
  | truncated
  /-- Two bytes that no row of R53 matches (R56); the word is carried. -/
  | illegalOpcode (op : Word)
  deriving DecidableEq, Repr

/-- The word of two bytes, the one at the lower address the more significant (20_memory.md R36). -/
def wordOfBytes (b0 b1 : Byte) : Word := b0 ++ b1

/-- The two bytes of a word in the order memory holds them (20_memory.md R36). -/
def bytesOfWord (op : Word) : Byte × Byte := (op.extractLsb' 8 8, op.extractLsb' 0 8)

/-- Decoding of any bytes: the first instruction and the bytes after it, or a rejection by name. -/
def decodeBytes : List Byte → Except DecodeReject (Instr × List Byte)
  | b0 :: b1 :: rest =>
    match decode (wordOfBytes b0 b1) with
    | some i => .ok (i, rest)
    | none => .error (.illegalOpcode (wordOfBytes b0 b1))
  | _ => .error .truncated

/-- The word of four hexadecimal digits, most significant first (00_scope.md R7). -/
def word4 (f a b c : Nibble) : Word := f ++ a ++ b ++ c

/-- Format XNN (R51). -/
def wordXNN (f x : Nibble) (nn : Byte) : Word := f ++ x ++ nn

/-- Format NNN (R51). -/
def wordNNN (f : Nibble) (nnn : Addr) : Word := f ++ nnn

/-- The word of an instruction, by the pattern column of R53. -/
def encode : Instr → Word
  | .cls => 0x00E0#16
  | .ret => 0x00EE#16
  | .jp nnn => wordNNN 0x1#4 nnn
  | .call nnn => wordNNN 0x2#4 nnn
  | .seImm x nn => wordXNN 0x3#4 x nn
  | .sneImm x nn => wordXNN 0x4#4 x nn
  | .seReg x y => word4 0x5#4 x y 0x0#4
  | .ldImm x nn => wordXNN 0x6#4 x nn
  | .addImm x nn => wordXNN 0x7#4 x nn
  | .ldReg x y => word4 0x8#4 x y 0x0#4
  | .orReg x y => word4 0x8#4 x y 0x1#4
  | .andReg x y => word4 0x8#4 x y 0x2#4
  | .xorReg x y => word4 0x8#4 x y 0x3#4
  | .addReg x y => word4 0x8#4 x y 0x4#4
  | .subReg x y => word4 0x8#4 x y 0x5#4
  | .shr x y => word4 0x8#4 x y 0x6#4
  | .subn x y => word4 0x8#4 x y 0x7#4
  | .shl x y => word4 0x8#4 x y 0xE#4
  | .sneReg x y => word4 0x9#4 x y 0x0#4
  | .ldI nnn => wordNNN 0xA#4 nnn
  | .jpV0 nnn => wordNNN 0xB#4 nnn
  | .rnd x nn => wordXNN 0xC#4 x nn
  | .drw x y n => word4 0xD#4 x y n
  | .skp x => wordXNN 0xE#4 x 0x9E#8
  | .sknp x => wordXNN 0xE#4 x 0xA1#8
  | .ldVxDt x => wordXNN 0xF#4 x 0x07#8
  | .ldVxK x => wordXNN 0xF#4 x 0x0A#8
  | .ldDtVx x => wordXNN 0xF#4 x 0x15#8
  | .ldStVx x => wordXNN 0xF#4 x 0x18#8
  | .addI x => wordXNN 0xF#4 x 0x1E#8
  | .ldF x => wordXNN 0xF#4 x 0x29#8
  | .ldB x => wordXNN 0xF#4 x 0x33#8
  | .ldMemVx x => wordXNN 0xF#4 x 0x55#8
  | .ldVxMem x => wordXNN 0xF#4 x 0x65#8

/-- The bytes of an instruction as memory holds them. -/
def encodeBytes (i : Instr) : List Byte :=
  [(bytesOfWord (encode i)).1, (bytesOfWord (encode i)).2]

/-- The instruction the decoder reads from an instruction whose bits are `w`, bit 0 the least significant bit of
the 16-bit word `op` of R53 and every bit from `nbits` up taken as 0: the two bytes are laid out as memory holds
them and given to `decodeBytes`. -/
def decodeTableWord (nbits w : Nat) : Option Instr :=
  let op : Word := BitVec.ofNat 16 (w % 2 ^ nbits)
  match decodeBytes [(bytesOfWord op).1, (bytesOfWord op).2] with
  | .ok (i, _) => some i
  | .error _ => none

end Sys2Proof
end

