-- ==== Sys2Proof/Machine/Flags.lean ====
section
/-! DEFINITION. The values the six flag-writing instructions put into VF (10_state.md R11): each is 0 or 1. The sixth,
the collision flag of Dxyn, is gathered pixel by pixel in Machine/Display.lean. -/

namespace Sys2Proof.Machine

/-- A flag as the byte VF receives: 0 or 1 (R11). -/
def flagByte (b : Bool) : Byte := if b then 1#8 else 0#8

/-- 8xy4: bit 8 of the 9-bit sum (41_load_and_alu.md R98). -/
def carryFlag (a b : Byte) : Byte := flagByte (decide (256 ≤ a.toNat + b.toNat))

/-- 8xy5 and 8xy7: the first operand is strictly greater, unsigned (R99, R101). -/
def greaterFlag (a b : Byte) : Byte := flagByte (decide (b.toNat < a.toNat))

/-- 8xy6: the bit shifted out, bit 0 (R100). -/
def lowBitFlag (a : Byte) : Byte := flagByte (a.getLsbD 0)

/-- 8xyE: the bit shifted out, bit 7 (R102). -/
def highBitFlag (a : Byte) : Byte := flagByte (a.getLsbD 7)

end Sys2Proof.Machine
end

