-- ==== Sys2Proof/Machine/State.lean ====
section
/-! DEFINITION. The state of the machine (10_state.md R10 to R24) as plain data, and the state after reset (R25). -/

namespace Sys2Proof.Machine

/-- RS, the run state (10_state.md R22). -/
inductive RunState where
  /-- The next tick starts a cycle. -/
  | running
  /-- An Fx0A is blocked waiting for a press event. -/
  | waitKey
  /-- A 00EE found the stack empty; terminal, and a good end. -/
  | halted
  /-- An exception was raised; terminal. -/
  | fatal
  deriving DecidableEq, Repr

/-- A key event: a 4-bit key index and pressed or released (10_state.md R20, 60_exceptions.md R172). -/
structure KeyEvent where
  key : Nibble
  pressed : Bool
  deriving DecidableEq, Repr

/-- What the environment can do between two steps of the core (00_scope.md R6): let a cycle start, push a key event,
or assert reset with a program image. (Its two other moves, a random byte and the time, are answers to a request
and are free values of Config.) Log 2. -/
inductive EnvMove where
  | tick
  | key (e : KeyEvent)
  | reset (image : List Byte)
  deriving DecidableEq, Repr

/-- The strobe outputs of 60_exceptions.md R172, as the last step emitted them. Log 18. -/
structure Strobes where
  render : Bool
  play : Bool
  pause : Bool
  deriving DecidableEq, Repr

/-- No strobe. -/
def Strobes.none : Strobes := { render := false, play := false, pause := false }

/-- One row of the framebuffer: 64 pixels (10_state.md R15). -/
abbrev PixelRow := Vector Bool Config.dispW

/-- The framebuffer: 32 rows of 64 pixels (10_state.md R15). -/
abbrev Screen := Vector PixelRow Config.dispH

/-- The whole state. -/
structure State where
  /-- V[0] to V[15] (R10); V[15] is VF (R11) -/
  v : Vector Byte 16
  /-- I (R12) -/
  i : Word
  /-- the program counter (R13) -/
  pc : Addr
  /-- the SP frames of STACK (R14), newest first; log 14 -/
  stack : List Addr
  /-- FB[row][col] (R15) -/
  fb : Screen
  /-- DT (R16) -/
  dt : Byte
  /-- ST (R17) -/
  st : Byte
  /-- SST (R18), in ms -/
  sst : Nat
  /-- KP[0] to KP[15] (R19), true is pressed -/
  kp : Vector Bool 16
  /-- KQ (R20), head first -/
  kq : List KeyEvent
  /-- AP (R21), true is playing -/
  ap : Bool
  /-- RS (R22) -/
  rs : RunState
  /-- FCAUSE (R22, 60_exceptions.md R150) -/
  fcause : BitVec 3
  /-- FINFO (R22, 60_exceptions.md R150) -/
  finfo : Word
  /-- M (R23), as the cells that differ from `Memory.unlisted`, addresses strictly rising -/
  mem : List Host.Cell
  /-- the parameters of 00_scope.md R5; no step changes them; log 1 -/
  cfg : Params
  /-- the model's own: the strobes of the last step; log 18 -/
  strobes : Strobes
  /-- the model's own: the environment's next moves as far as they are fixed; when it is empty the next is a tick, with free
  key events before it; logs 2, 36 -/
  script : List EnvMove
  /-- the model's own: random bytes drawn so far; log 4 -/
  rndIndex : Nat
  /-- the model's own: clock readings so far; log 5 -/
  nowIndex : Nat
  /-- the model's own: the time last answered, in ms; log 5 -/
  clock : Nat
  /-- the model's own: ticks so far; log 36 -/
  tickIndex : Nat
  deriving DecidableEq, Repr

/-- The outcome `fault` of a step. It has no constructor: CORE's own faults (60_exceptions.md R150) are entered as next
states, RS = FATAL, by R152, and no access of this machine can fail (20_memory.md R32). Log 16; safe. -/
inductive Fault where
  deriving DecidableEq, Repr

/-- The outcome `refused` of a step. -/
inductive Refusal where
  /-- An instruction without a meaning: raised by an arm of `exec` only, and by none of them in this model. Safe. -/
  | notModelled (mnemonic : String)
  /-- A reset with an image longer than 3584 bytes: "reset with such an image is not defined and a model gives it no
  initial state" (70_reset_and_hazards.md R181). Raised by the environment's move `reset` only. Safe. Log 20. -/
  | imageTooLong
  deriving DecidableEq, Repr

/-- A dark framebuffer (R25). -/
def blankScreen : Screen :=
  Vector.replicate Config.dispH (Vector.replicate Config.dispW false)

/-- The state right after reset (10_state.md R25) with the empty image and the default parameters of 00_scope.md R5:
every field at the spec's value, memory with nothing listed. SST, FCAUSE and FINFO have no reset value in the spec:
DESIGN CHOICE 0 (logs 6, 7; unsafe). The fields from `cfg` on are the model's own (logs 1, 2, 4, 5, 18, 36). -/
def State.reset : State :=
  { v := Vector.replicate 16 0#8
    i := 0#16
    pc := Config.progBase
    stack := []
    fb := blankScreen
    dt := 0#8
    st := 0#8
    sst := 0
    kp := Vector.replicate 16 false
    kq := []
    ap := false
    rs := .running
    fcause := 0#3
    finfo := 0#16
    mem := []
    cfg := Params.default
    strobes := Strobes.none
    script := []
    rndIndex := 0
    nowIndex := 0
    clock := 0
    tickIndex := 0 }

end Sys2Proof.Machine
end

