-- ==== Sys2Proof/Machine/Memory.lean ====
section
/-! DEFINITION. The memory M of 20_memory.md as a list of the bytes that differ from its reset contents. An address is
a natural number below 4096, reached from a 12-bit address with toNat. -/

namespace Sys2Proof.Machine

/-- What an address that is not listed reads as: the contents reset leaves with the default font and no image (20_memory.md
R33), that is the font table of R34 at 0x000 to 0x04F and 0 from 0x050 to 0xFFF. Logs 9, 10. -/
def Memory.unlisted (a : Nat) : Byte :=
  Config.defaultFontBytes.getD a 0#8

/-- One byte read. -/
def Memory.read : List Host.Cell → Nat → Byte
  | [], a => Memory.unlisted a
  | c :: m, a => if c.1 = a then c.2 else Memory.read m a

/-- Put a cell before the first cell with a higher address. -/
def Memory.insert (c : Host.Cell) : List Host.Cell → List Host.Cell
  | [] => [c]
  | d :: m => if c.1 < d.1 then c :: d :: m else d :: Memory.insert c m

/-- One byte written: the address's cell is taken out, and put back with the new value unless that value is what
an unlisted address reads as. -/
def Memory.write (m : List Host.Cell) (a : Nat) (b : Byte) : List Host.Cell :=
  let rest := m.filter (fun c => c.1 != a)
  if b = Memory.unlisted a then rest else Memory.insert (a, b) rest

/-- Bytes written at rising addresses from `a` on. -/
def Memory.writeFrom : List Host.Cell → Nat → List Byte → List Host.Cell
  | m, _, [] => m
  | m, a, b :: bs => Memory.writeFrom (Memory.write m a b) (a + 1) bs

/-- Every address of the list is above `lo`, below 4096 and rising, and no cell equals what its address reads as
when it is not listed. -/
def Memory.wfAbove : Option Nat → List Host.Cell → Bool
  | _, [] => true
  | lo, c :: m =>
    (match lo with | none => true | some l => decide (l < c.1)) && decide (c.1 < Config.memSize) &&
      (c.2 != Memory.unlisted c.1) && Memory.wfAbove (some c.1) m

/-- The canonical form, so that equal memories are equal lists. -/
def Memory.wf (m : List Host.Cell) : Bool :=
  Memory.wfAbove none m

end Sys2Proof.Machine
end

