-- ==== Sys2Proof/Machine/Ops.lean ====
section
/-! DEFINITION. The named operations over State: registers, the program counter and the outcomes of 40_cycle_and_control.md
R71, the stack, memory, the framebuffer, the keypad, the clock and the random source, the halt and the taking of an
exception (60_exceptions.md R152). -/

namespace Sys2Proof.Machine

/-- The fields' plain updates. -/
def State.setI (s : State) (w : Word) : State := { s with i := w }
/-- `pc <- target` (00_scope.md R8): a 12-bit value is already modulo 4096. -/
def State.setPc (s : State) (a : Addr) : State := { s with pc := a }
def State.setStack (s : State) (fs : List Addr) : State := { s with stack := fs }
def State.setFb (s : State) (f : Screen) : State := { s with fb := f }
def State.setDt (s : State) (b : Byte) : State := { s with dt := b }
def State.setSt (s : State) (b : Byte) : State := { s with st := b }
def State.setSst (s : State) (t : Nat) : State := { s with sst := t }
def State.setKp (s : State) (k : Vector Bool 16) : State := { s with kp := k }
def State.setKq (s : State) (q : List KeyEvent) : State := { s with kq := q }
def State.setAp (s : State) (b : Bool) : State := { s with ap := b }
def State.setRs (s : State) (r : RunState) : State := { s with rs := r }
def State.setMem (s : State) (m : List Host.Cell) : State := { s with mem := m }
def State.setStrobes (s : State) (o : Strobes) : State := { s with strobes := o }
def State.setScript (s : State) (l : List EnvMove) : State := { s with script := l }

/-- `V[r]` (00_scope.md R8): no register is hardwired or banked (10_state.md R10). -/
def State.reg (s : State) (r : Nibble) : Byte := s.v[r.toNat]'r.isLt

/-- `V[r] <- b` (00_scope.md R8). -/
def State.setReg (s : State) (r : Nibble) (b : Byte) : State := { s with v := s.v.set r.toNat b r.isLt }

/-- Outcome NEXT (R71, R74): `pc <- (pc + 2) mod 4096`. -/
def State.advance (s : State) : State := s.setPc (s.pc + 2#12)

/-- Outcome SKIP (R71, R74): `pc <- (pc + 4) mod 4096`; the skipped word is not fetched. -/
def State.skip (s : State) : State := s.setPc (s.pc + 4#12)

/-- SKIP when the condition holds, else NEXT (R71). -/
def State.skipIf (s : State) (b : Bool) : State := if b then s.skip else s.advance

/-- SP (10_state.md R14): how many frames are held. -/
def State.sp (s : State) : Nat := s.stack.length

/-- STACK[k] for `k < SP` (R14); the frames at and above SP are never read and not held (log 14). -/
def State.frame (s : State) (k : Nat) : Option Addr := s.stack.reverse[k]?

/-- `STACK[SP] <- a; SP <- SP + 1` (40_cycle_and_control.md R78). -/
def State.pushFrame (s : State) (a : Addr) : State := s.setStack (a :: s.stack)

/-- One byte of memory (00_scope.md R8 MemRead). -/
def State.byteAt (s : State) (a : Addr) : Byte := Memory.read s.mem a.toNat

/-- One byte stored, whatever its address (FONT_WRITE_MODE `ram` of 20_memory.md R35). -/
def State.poke (s : State) (a : Addr) (b : Byte) : State := s.setMem (Memory.write s.mem a.toNat b)

/-- `FB[row][col]` (10_state.md R15). -/
def getPixel (f : Screen) (row : Row) (col : Col) : Bool :=
  (f[row.toNat]'row.isLt)[col.toNat]'col.isLt

/-- `FB[row][col] <- b`. -/
def setPixel (f : Screen) (row : Row) (col : Col) (b : Bool) : Screen :=
  f.set row.toNat ((f[row.toNat]'row.isLt).set col.toNat b col.isLt) row.isLt

/-- `KP[k]` (10_state.md R19). -/
def keyDown (kp : Vector Bool 16) (k : Nibble) : Bool := kp[k.toNat]'k.isLt

/-- Applying one key event: `KP[key] <- pressed` (44_keypad_and_timers.md R130). -/
def applyKey (kp : Vector Bool 16) (e : KeyEvent) : Vector Bool 16 := kp.set e.key.toNat e.pressed e.key.isLt

/-- `drain()` (R131): every queued event is popped, head first, and applied. -/
def State.drain (s : State) : State :=
  (s.setKp (s.kq.foldl applyKey s.kp)).setKq []

/-- The time the environment answers to the next request (60_exceptions.md R164): no earlier than the last one. Log 5. -/
def State.now (s : State) : Nat := s.clock + Config.timeStep s.nowIndex

/-- One reading of the clock. -/
def State.readClock (s : State) : State := { s with clock := s.now, nowIndex := s.nowIndex + 1 }

/-- `draw_rnd()` (41_load_and_alu.md R104): the byte the environment answers. Log 4. -/
def State.rndByte (s : State) : Byte := Config.rndByte s.rndIndex

/-- One random byte is used up. -/
def State.drawRnd (s : State) : State := { s with rndIndex := s.rndIndex + 1 }

/-- The key events that come before the next tick of their own accord: free when no move is fixed (70_reset_and_hazards.md
R195), none when the next move is. Log 36. -/
def State.arrivals (s : State) : List KeyEvent :=
  match s.script with
  | [] => (Config.keyArrivals s.tickIndex).map (fun p => { key := p.1, pressed := p.2 })
  | _ :: _ => []

/-- The synchronous exceptions (60_exceptions.md R150). -/
inductive Exc where
  | illegalOpcode
  | stackOverflow
  | fontWrite
  | badKeyIndex
  deriving DecidableEq, Repr

/-- The FCAUSE codes (60_exceptions.md R150). -/
def Exc.code : Exc → BitVec 3
  | .illegalOpcode => 1#3
  | .stackOverflow => 2#3
  | .fontWrite => 3#3
  | .badKeyIndex => 4#3

/-- Entering the fatal state (60_exceptions.md R152): `FCAUSE <- code(E)`, `FINFO <- info`, `RS <- FATAL`, and "Nothing
else changes". There is no vector, no saved state and no return from it: only reset leaves it (R165). -/
def State.raise (s : State) (e : Exc) (info : Word) : State :=
  { s with fcause := e.code, finfo := info, rs := .fatal }

/-- Halt (60_exceptions.md R155): `RS <- HALTED` and nothing else; only reset leaves it (R165). -/
def State.halt (s : State) : State := s.setRs .halted

end Sys2Proof.Machine
end

