-- ==== Sys2Proof/Machine/Alu.lean ====
section
/-! DEFINITION. Register load, arithmetic, logic, shift and random instructions (41_load_and_alu.md). The two writes of
a flag-writing instruction are sequential statements in the rule's order (R91, D4, log 12). -/

namespace Sys2Proof.Machine

/-- `V[x] <- b`, then NEXT. -/
def State.writeNext (s : State) (x : Nibble) (b : Byte) : State := (s.setReg x b).advance

/-- R92 LD Vx, nn. -/
def execLdImm (x : Nibble) (nn : Byte) (s : State) : Host.Outcome State Fault Refusal :=
  .next (s.writeNext x nn)

/-- R93 ADD Vx, nn: wraps, sets no flag. -/
def execAddImm (x : Nibble) (nn : Byte) (s : State) : Host.Outcome State Fault Refusal :=
  .next (s.writeNext x (s.reg x + nn))

/-- R94 LD Vx, Vy. -/
def execLdReg (x y : Nibble) (s : State) : Host.Outcome State Fault Refusal :=
  .next (s.writeNext x (s.reg y))

/-- R95 OR Vx, Vy: VF untouched. -/
def execOrReg (x y : Nibble) (s : State) : Host.Outcome State Fault Refusal :=
  .next (s.writeNext x (s.reg x ||| s.reg y))

/-- R96 AND Vx, Vy: VF untouched. -/
def execAndReg (x y : Nibble) (s : State) : Host.Outcome State Fault Refusal :=
  .next (s.writeNext x (s.reg x &&& s.reg y))

/-- R97 XOR Vx, Vy: VF untouched. -/
def execXorReg (x y : Nibble) (s : State) : Host.Outcome State Fault Refusal :=
  .next (s.writeNext x (s.reg x ^^^ s.reg y))

/-- R98 ADD Vx, Vy: the result first, the carry last. -/
def execAddReg (x y : Nibble) (s : State) : Host.Outcome State Fault Refusal :=
  .next ((s.setReg x (s.reg x + s.reg y)).writeNext 15#4 (carryFlag (s.reg x) (s.reg y)))

/-- R99 SUB Vx, Vy: the flag first, then both registers are read again. -/
def execSubReg (x y : Nibble) (s : State) : Host.Outcome State Fault Refusal :=
  let t := s.setReg 15#4 (greaterFlag (s.reg x) (s.reg y))
  .next (t.writeNext x (t.reg x - t.reg y))

/-- R100 SHR Vx: the bit shifted out first, then V[x] is read again and shifted; y plays no part (30_encoding.md R55). -/
def execShr (x : Nibble) (s : State) : Host.Outcome State Fault Refusal :=
  let t := s.setReg 15#4 (lowBitFlag (s.reg x))
  .next (t.writeNext x (t.reg x >>> 1))

/-- R101 SUBN Vx, Vy: the flag first, then both registers are read again. -/
def execSubn (x y : Nibble) (s : State) : Host.Outcome State Fault Refusal :=
  let t := s.setReg 15#4 (greaterFlag (s.reg y) (s.reg x))
  .next (t.writeNext x (t.reg y - t.reg x))

/-- R102 SHL Vx: the bit shifted out first, then V[x] is read again and shifted; y plays no part (30_encoding.md R55). -/
def execShl (x : Nibble) (s : State) : Host.Outcome State Fault Refusal :=
  let t := s.setReg 15#4 (highBitFlag (s.reg x))
  .next (t.writeNext x (t.reg x <<< 1))

/-- R103 RND Vx, nn: the byte is drawn whatever nn is, and V[x] receives it masked by nn. -/
def execRnd (x : Nibble) (nn : Byte) (s : State) : Host.Outcome State Fault Refusal :=
  .next (s.drawRnd.writeNext x (s.rndByte &&& nn))

end Sys2Proof.Machine
end

