-- ==== Sys2Proof/Machine/Control.lean ====
section
/-! DEFINITION. The control-transfer instructions of 40_cycle_and_control.md section 2. -/

namespace Sys2Proof.Machine

/-- R77 JP nnn: `pc <- nnn`. -/
def execJp (nnn : Addr) (s : State) : Host.Outcome State Fault Refusal :=
  .next (s.setPc nnn)

/-- The push of a CALL would exceed a finite STACK_DEPTH (R78, 60_exceptions.md R153). A depth already passed, which
no run reaches, counts as exceeded too. -/
def State.stackFull (s : State) : Bool :=
  match s.cfg.stackDepth with
  | none => false
  | some d => decide (d ≤ s.sp)

/-- R78 CALL nnn: the address of this instruction is pushed, then `pc <- nnn`; on a full finite stack StackOverflow(pc)
before any effect. (Which of the two consistent frames is stored: D3, log 13.) -/
def execCall (nnn : Addr) (s : State) : Host.Outcome State Fault Refusal :=
  if s.stackFull then .next (s.raise .stackOverflow (s.pc.setWidth 16))
  else .next ((s.pushFrame s.pc).setPc nnn)

/-- R79 RET: on the empty stack halt; else the newest frame is popped and `pc` is that frame plus 2. -/
def execRet (s : State) : Host.Outcome State Fault Refusal :=
  match s.stack with
  | [] => .next s.halt
  | a :: rest => .next ((s.setStack rest).setPc (a + 2#12))

/-- R80 JP V0, nnn: `pc <- (nnn + V[0]) mod 4096`, V[0] whatever nnn is (30_encoding.md R55). -/
def execJpV0 (nnn : Addr) (s : State) : Host.Outcome State Fault Refusal :=
  .next (s.setPc (nnn + (s.reg 0#4).setWidth 12))

/-- R81 SE Vx, nn. -/
def execSeImm (x : Nibble) (nn : Byte) (s : State) : Host.Outcome State Fault Refusal :=
  .next (s.skipIf (s.reg x == nn))

/-- R82 SNE Vx, nn. -/
def execSneImm (x : Nibble) (nn : Byte) (s : State) : Host.Outcome State Fault Refusal :=
  .next (s.skipIf (s.reg x != nn))

/-- R83 SE Vx, Vy. -/
def execSeReg (x y : Nibble) (s : State) : Host.Outcome State Fault Refusal :=
  .next (s.skipIf (s.reg x == s.reg y))

/-- R84 SNE Vx, Vy. -/
def execSneReg (x y : Nibble) (s : State) : Host.Outcome State Fault Refusal :=
  .next (s.skipIf (s.reg x != s.reg y))

end Sys2Proof.Machine
end

