-- ==== Sys2Proof/Machine/Operands.lean ====
section
/-! DEFINITION. The operand forms: the effective address (42_index_and_memory.md R110), the bytes a store moves and
where it puts them (R114, R115, 20_memory.md R35), the key an operand names (44_keypad_and_timers.md R134), the start
position and the bits of a sprite (43_display.md R121). -/

namespace Sys2Proof.Machine

/-- `EA(k) = (I + k) mod 4096`, with I the full 16-bit register (R110). -/
def ea (i : Word) (k : Nat) : Addr := (i + BitVec.ofNat 16 k).setWidth 12

/-- The three decimal digits of a byte: hundreds, tens, ones (R114). -/
def bcdDigits (b : Byte) : List Byte :=
  [b / 100#8, (b / 10#8) % 10#8, b % 10#8]

/-- The registers V[0] to V[x], in order (R115). -/
def State.regsUpTo (s : State) (x : Nibble) : List Byte :=
  (List.range (x.toNat + 1)).map (fun k => s.reg (BitVec.ofNat 4 k))

/-- The address lies in the font region 0x000 to 0x04F (20_memory.md R31, R35). -/
def inFont (a : Addr) : Bool := decide (a.toNat < Config.fontSize)

/-- The effective addresses of a store of `n` bytes, ascending offsets (20_memory.md R37). -/
def storeAddrs (i : Word) (n : Nat) : List Addr := (List.range n).map (ea i)

/-- The lowest offset's address among those in the font region (60_exceptions.md R154). -/
def firstFontAddr (i : Word) (n : Nat) : Option Addr := (storeAddrs i n).find? inFont

/-- One byte of a store under FONT_WRITE_MODE (20_memory.md R35): dropped silently in mode `ignore` when it falls in
the font region, else stored. (In mode `fault` no byte is reached unless none falls there.) -/
def State.storeByte (s : State) (a : Addr) (b : Byte) : State :=
  if s.cfg.fontWrite = .ignore ∧ inFont a then s else s.poke a b

/-- The bytes stored at EA(k), EA(k + 1), ..., ascending (20_memory.md R37). -/
def State.storeBytes : State → Nat → List Byte → State
  | s, _, [] => s
  | s, k, b :: bs => (s.storeByte (ea s.i k) b).storeBytes (k + 1) bs

/-- A store of `bs` from I on: in mode `fault` FontWrite is raised before any byte is written when one of the addresses
is in the font region, FINFO the first such (20_memory.md R35, 60_exceptions.md R154); else every byte is stored and
the instruction ends with NEXT. -/
def State.storeAll (s : State) (bs : List Byte) : State :=
  match s.cfg.fontWrite, firstFontAddr s.i bs.length with
  | .fault, some a => s.raise .fontWrite (a.setWidth 16)
  | _, _ => (s.storeBytes 0 bs).advance

/-- V[k] <- M[EA(k)] for k below the count, ascending (R117). -/
def State.loadRegs (s : State) (n : Nat) : State :=
  (List.range n).foldl (fun t k => t.setReg (BitVec.ofNat 4 k) (t.byteAt (ea t.i k))) s

/-- What the operand of Ex9E and ExA1 selects (44_keypad_and_timers.md R134). -/
inductive KeySel where
  /-- a key of the latch -/
  | key (k : Nibble)
  /-- mode `released`: a key that counts as not pressed -/
  | noKey
  /-- mode `fault`: BadKeyIndex -/
  | bad
  deriving DecidableEq, Repr

/-- The key named by V[x]: the byte itself up to 15, and above 15 what KEY_INDEX_OOR says (R134). -/
def keySel (m : KeyIndexMode) (b : Byte) : KeySel :=
  if b.toNat ≤ 15 then .key (b.setWidth 4)
  else match m with
    | .fault => .bad
    | .mask => .key (b.setWidth 4)
    | .released => .noKey

/-- `x0 <- V[x] mod 64` (43_display.md R121). -/
def startCol (b : Byte) : Col := b.setWidth 6

/-- `y0 <- V[y] mod 32` (R121). -/
def startRow (b : Byte) : Row := b.setWidth 5

/-- Bit `7 - c` of a sprite byte is the pixel c columns from the sprite's left edge (R121; GK2, log 11). -/
def spriteBit (b : Byte) (c : Nat) : Bool := b.getLsbD (7 - c)

end Sys2Proof.Machine
end

