-- ==== Sys2Proof/Machine/Display.lean ====
section
/-! DEFINITION. The display instructions (43_display.md). -/

namespace Sys2Proof.Machine

/-- R120 CLS: every pixel 0. -/
def execCls (s : State) : Host.Outcome State Fault Refusal :=
  .next (s.setFb blankScreen).advance

/-- One pixel of R121: the collision gathers `old AND bit`, the pixel becomes `old XOR bit`. -/
def drawPixel (row : Row) (col : Col) (bit : Bool) (p : Screen × Bool) : Screen × Bool :=
  (setPixel p.1 row col (getPixel p.1 row col ^^ bit), p.2 || (getPixel p.1 row col && bit))

/-- The inner loop of R121: the eight pixels of one sprite byte, columns wrapping. -/
def drawRow (x0 : Col) (row : Row) (byte : Byte) (p : Screen × Bool) : Screen × Bool :=
  (List.range 8).foldl (fun q c => drawPixel row (x0 + BitVec.ofNat 6 c) (spriteBit byte c) q) p

/-- The outer loop of R121: one sprite byte from EA(r) for each row r below n, rows wrapping. -/
def drawSprite (s : State) (x0 : Col) (y0 : Row) (n : Nat) : Screen × Bool :=
  (List.range n).foldl (fun q r => drawRow x0 (y0 + BitVec.ofNat 5 r) (s.byteAt (ea s.i r)) q) (s.fb, false)

/-- R121 DRW Vx, Vy, n: both coordinates are read first, VF is written last (R122, D4, log 12). -/
def execDrw (x y n : Nibble) (s : State) : Host.Outcome State Fault Refusal :=
  let p := drawSprite s (startCol (s.reg x)) (startRow (s.reg y)) n.toNat
  .next ((s.setFb p.1).setReg 15#4 (flagByte p.2)).advance

end Sys2Proof.Machine
end

