-- ==== Sys2Proof/Machine/Index.lean ====
section
/-! DEFINITION. Index-register and memory instructions (42_index_and_memory.md). None of the three that move bytes
changes I (R116). -/

namespace Sys2Proof.Machine

/-- R111 LD I, nnn: zero-extended. -/
def execLdI (nnn : Addr) (s : State) : Host.Outcome State Fault Refusal :=
  .next ((s.setI (nnn.setWidth 16)).advance)

/-- R112 ADD I, Vx: wraps at 65536 (D20, log 23), sets no flag. -/
def execAddI (x : Nibble) (s : State) : Host.Outcome State Fault Refusal :=
  .next (s.setI (s.i + (s.reg x).setWidth 16)).advance

/-- R113 LD F, Vx: `I <- 5 * V[x]` for the whole byte (D11, log 24). -/
def execLdF (x : Nibble) (s : State) : Host.Outcome State Fault Refusal :=
  .next (s.setI (BitVec.ofNat 16 Config.fontStride * (s.reg x).setWidth 16)).advance

/-- R114 LD B, Vx: hundreds, tens and ones at I, I + 1, I + 2. -/
def execLdB (x : Nibble) (s : State) : Host.Outcome State Fault Refusal :=
  .next (s.storeAll (bcdDigits (s.reg x)))

/-- R115 LD [I], Vx: V[0] to V[x] at I to I + x. -/
def execLdMemVx (x : Nibble) (s : State) : Host.Outcome State Fault Refusal :=
  .next (s.storeAll (s.regsUpTo x))

/-- R117 LD Vx, [I]: V[0] to V[x] from I to I + x. -/
def execLdVxMem (x : Nibble) (s : State) : Host.Outcome State Fault Refusal :=
  .next (s.loadRegs (x.toNat + 1)).advance

end Sys2Proof.Machine
end

