-- ==== Sys2Proof/Machine/Keypad.lean ====
section
/-! DEFINITION. The keypad instructions (44_keypad_and_timers.md section 2). -/

namespace Sys2Proof.Machine

/-- The test of the latch by what the operand selects: a key that counts as released is not pressed (R134). -/
def KeySel.pressed (k : KeySel) (kp : Vector Bool 16) : Bool :=
  match k with
  | .key k => keyDown kp k
  | .noKey => false
  | .bad => false

/-- R132 and R133 share this shape: BadKeyIndex(V[x]) before the drain (R134, 60_exceptions.md R156), else drain, then skip
when the key's state is the wanted one. -/
def keyTest (wanted : Bool) (x : Nibble) (s : State) : State :=
  match keySel s.cfg.keyOor (s.reg x) with
  | .bad => s.raise .badKeyIndex ((s.reg x).setWidth 16)
  | k => s.drain.skipIf (k.pressed s.drain.kp == wanted)

/-- R132 SKP Vx. -/
def execSkp (x : Nibble) (s : State) : Host.Outcome State Fault Refusal :=
  .next (keyTest true x s)

/-- R133 SKNP Vx. -/
def execSknp (x : Nibble) (s : State) : Host.Outcome State Fault Refusal :=
  .next (keyTest false x s)

/-- The loop of R135 over the queue: events are popped and applied, releases too, up to and with the first press;
the latch, and the press's key with the events behind it, or none when the queue ran out. -/
def awaitPress : Vector Bool 16 → List KeyEvent → Vector Bool 16 × Option (Nibble × List KeyEvent)
  | kp, [] => (kp, none)
  | kp, e :: q =>
    if e.pressed then (applyKey kp e, some (e.key, q)) else awaitPress (applyKey kp e) q

/-- R135 LD Vx, K: at a press `V[x] <- e.key`, `RS <- RUNNING`, NEXT; with the queue run out, outcome BLOCK:
`RS <- WAITKEY` with `pc` unmoved (R71). The wait goes on when an event arrives (Machine/Cycle.lean). -/
def execLdVxK (x : Nibble) (s : State) : Host.Outcome State Fault Refusal :=
  match awaitPress s.kp s.kq with
  | (kp, some (k, q)) =>
    .next ((((s.setKp kp).setKq q).setReg x (k.setWidth 8)).setRs .running).advance
  | (kp, none) => .next (((s.setKp kp).setKq []).setRs .waitKey)

end Sys2Proof.Machine
end

