-- ==== Sys2Proof/Machine/Timers.lean ====
section
/-! DEFINITION. The timer instructions (44_keypad_and_timers.md section 3). -/

namespace Sys2Proof.Machine

/-- R139 LD Vx, DT: the value phase P1 of this cycle left. -/
def execLdVxDt (x : Nibble) (s : State) : Host.Outcome State Fault Refusal :=
  .next ((s.setReg x s.dt).advance)

/-- R140 LD DT, Vx. -/
def execLdDtVx (x : Nibble) (s : State) : Host.Outcome State Fault Refusal :=
  .next ((s.setDt (s.reg x)).advance)

/-- R141 LD ST, Vx: `ST <- V[x]`, and `SST <- now()` on every execution (D28, log 34). -/
def execLdStVx (x : Nibble) (s : State) : Host.Outcome State Fault Refusal :=
  .next ((((s.setSt (s.reg x)).setSst s.now).readClock).advance)

end Sys2Proof.Machine
end

