-- ==== Sys2Proof/Machine/Reset.lean ====
section
/-! DEFINITION. The reset procedure (70_reset_and_hazards.md R180, R181; 20_memory.md R33). -/

namespace Sys2Proof.Machine

/-- The memory reset leaves (R33): FONT at 0, 0 from 0x050 on, then the image at 0x200, zero-padded. -/
def bootMemory (font : Vector Byte Config.fontSize) (image : List Byte) : List Host.Cell :=
  Memory.writeFrom (Memory.writeFrom [] 0 font.toList) Config.progBase.toNat image

/-- `reset(program_image)` of a machine with the given parameters (R180): every piece of state at its value of 10_state.md
R25. None for an image over 3584 bytes: no initial state is given for it (R181). -/
def State.boot (cfg : Params) (image : List Byte) : Option State :=
  if legalImage image then some { State.reset with cfg := cfg, mem := bootMemory cfg.font image } else none

/-- The environment asserts reset (R180), in any run state: "nothing of the previous run survives it, the key queue
included". The parameters and the environment's own fields are not part of the run (logs 1, 19). -/
def State.resetMove (s : State) (image : List Byte) : Host.Outcome State Fault Refusal :=
  match State.boot s.cfg image with
  | none => .refused .imageTooLong
  | some b => .next { b with script := s.script, rndIndex := s.rndIndex, nowIndex := s.nowIndex, clock := s.clock, tickIndex := s.tickIndex }

end Sys2Proof.Machine
end

