-- ==== Sys2Proof/Machine/Cycle.lean ====
section
/-! DEFINITION. The cycle and its phases (40_cycle_and_control.md R70), the other run states (R72), and the environment's
moves (00_scope.md R6). Machine/Step.lean only calls these. -/

namespace Sys2Proof.Machine

/-- One timer's decrement, stopping at 0 (60_exceptions.md R160). -/
def timerDown (b : Byte) : Byte := if b = 0#8 then 0#8 else b - 1#8

/-- Phase P1: both timers (R160). -/
def State.tickTimers (s : State) : State := { s with dt := timerDown s.dt, st := timerDown s.st }

/-- Phase P2: the two bytes at `pc` and `pc + 1` modulo 4096, the first the more significant (20_memory.md R36). -/
def State.fetch (s : State) : Word := wordOfBytes (s.byteAt s.pc) (s.byteAt (s.pc + 1#12))

/-- Phase P5 (60_exceptions.md R161): play when ST is above 0; pause when it is 0, the audio plays, and 50 ms have passed
since SST. The clock is read only when the rule compares it. -/
def State.audio (s : State) : State :=
  if 0 < s.st.toNat then
    (if s.ap then s else (s.setAp true).setStrobes { s.strobes with play := true })
  else if s.ap then
    (if Config.holdMs ≤ s.now - s.sst then (s.readClock.setAp false).setStrobes { s.strobes with pause := true }
     else s.readClock)
  else s

/-- Phase P6 (60_exceptions.md R162): one render strobe. -/
def State.render (s : State) : State := s.setStrobes { s.strobes with render := true }

/-- P5 and P6, for a cycle that completed; after HALT, FATAL or BLOCK they do not happen (R70). -/
def State.finish (s : State) : State := if s.rs = .running then s.audio.render else s

/-- P5 and P6 after phase P4's outcome. -/
def finishOutcome : Host.Outcome State Fault Refusal → Host.Outcome State Fault Refusal
  | .next t => .next t.finish
  | .fault r => .fault r
  | .refused r => .refused r

/-- Phases P2 to P6, from the state P1 left: an illegal word raises IllegalOpcode(op) and the cycle ends there (R70,
60_exceptions.md R151). -/
def runCycle (s : State) : Host.Outcome State Fault Refusal :=
  match decode s.fetch with
  | none => .next (s.raise .illegalOpcode s.fetch)
  | some i => finishOutcome (exec i s)

/-- The blocked Fx0A goes on when KQ is not empty (R72, R135): "the register index `x` of that Fx0A is taken from the
instruction at `pc`, which has not moved" (10_state.md R22). P1 is not run again: it is the same cycle (R70). Log 17. -/
def resumeWait (s : State) : Host.Outcome State Fault Refusal :=
  match s.kq with
  | [] => .next s
  | _ :: _ => finishOutcome (exec (.ldVxK (opX s.fetch)) s)

/-- A tick: it starts a cycle when RS = RUNNING and has no effect otherwise (R70, R72, 60_exceptions.md R165). Log 15. -/
def tickMove (s : State) : Host.Outcome State Fault Refusal :=
  match s.rs with
  | .running => runCycle s.tickTimers
  | .waitKey => resumeWait s
  | .halted => .next s
  | .fatal => .next s

/-- A key event: appended to KQ in any run state (60_exceptions.md R163); a blocked Fx0A takes it at once (R135). -/
def keyMove (e : KeyEvent) (s : State) : Host.Outcome State Fault Refusal :=
  match s.rs with
  | .waitKey => resumeWait (s.setKq (s.kq ++ [e]))
  | _ => .next (s.setKq (s.kq ++ [e]))

/-- The strobes of the step before are over (log 18). -/
def State.beginStep (s : State) : State := s.setStrobes Strobes.none

/-- The state a tick finds: the strobes of the step before over, the move taken off the script, and the key events that came
before the tick at the end of KQ (60_exceptions.md R163). Logs 2, 36. -/
def State.atTick (s : State) : State :=
  { s with
    strobes := Strobes.none, script := s.script.tail, kq := s.kq ++ s.arrivals, tickIndex := s.tickIndex + 1 }

/-- One step: the environment's next move, a tick when the script is empty (log 2): while the machine runs another tick
always comes, and what keys come before it is free (70_reset_and_hazards.md R195). -/
def runStep (s : State) : Host.Outcome State Fault Refusal :=
  match s.script with
  | [] => tickMove s.atTick
  | .tick :: _ => tickMove s.atTick
  | .key e :: r => keyMove e (s.beginStep.setScript r)
  | .reset image :: r => (s.beginStep.setScript r).resetMove image

/-- The state with the word `w` (its low `nbits` bits) stored where the next fetch reads, high byte first (20_memory.md
R36), and a tick of a running machine next, so that the very next step runs it. -/
def placeFetchWord (s : State) (nbits w : Nat) : State :=
  let op : Word := BitVec.ofNat 16 (w % 2 ^ nbits)
  let t := (s.poke s.pc (bytesOfWord op).1).poke (s.pc + 1#12) (bytesOfWord op).2
  (t.setRs .running).setScript (.tick :: s.script)

end Sys2Proof.Machine
end

