-- ==== Sys2Proof/Machine/Step.lean ====
section
/-! DEFINITION. The step of the machine, and the placing of one instruction where it is fetched next. -/

namespace Sys2Proof.Machine

/-- One step: the environment's next move, a tick with free key events before it when the script is empty
(Machine/Cycle.lean). -/
def step (s : State) : Host.Outcome State Fault Refusal := runStep s

/-- The state whose next step fetches and runs the instruction whose bits are `w`. -/
def State.withFetchWord (s : State) (nbits w : Nat) : State := placeFetchWord s nbits w

end Sys2Proof.Machine
end

