-- ==== Sys2Proof/Machine/Signals.lean ====
section
/-! DEFINITION. The outputs of CORE (60_exceptions.md R172), each a view of the state. -/

namespace Sys2Proof.Machine

/-- The output signals of R172. -/
structure Outputs where
  fb : Screen
  render : Bool
  audioOn : Bool
  play : Bool
  pause : Bool
  halted : Bool
  fatal : Bool
  fcause : BitVec 3
  finfo : Word
  deriving DecidableEq, Repr

/-- The levels and strobes the state shows. -/
def State.outputs (s : State) : Outputs :=
  { fb := s.fb
    render := s.strobes.render
    audioOn := s.ap
    play := s.strobes.play
    pause := s.strobes.pause
    halted := decide (s.rs = .halted)
    fatal := decide (s.rs = .fatal)
    fcause := s.fcause
    finfo := s.finfo }

end Sys2Proof.Machine
end

