-- ==== Sys2Proof/Safety.lean ====
section
/-! DEFINITION. The terms the claims use: what a state change leaves alone, which parts the spec lets an instruction
write, the invariant of a run, and where a store lands. -/

namespace Sys2Proof.Machine

/-- The parts of State, one for each field. -/
inductive Part where
  | v | i | pc | stack | fb | dt | st | sst | kp | kq | ap | rs | fcause | finfo | mem
  | cfg | strobes | script | rndIndex | nowIndex | clock | tickIndex
  deriving DecidableEq, Repr

/-- The part holds in `t` what it held in `s`. Registers, the frames, the pixels and memory are compared through the
model's reads of one of them. -/
def Part.Same : Part → State → State → Prop
  | .v, s, t => ∀ r : Nibble, t.reg r = s.reg r
  | .i, s, t => t.i = s.i
  | .pc, s, t => t.pc = s.pc
  | .stack, s, t => t.sp = s.sp ∧ ∀ k, t.frame k = s.frame k
  | .fb, s, t => ∀ row col, getPixel t.fb row col = getPixel s.fb row col
  | .dt, s, t => t.dt = s.dt
  | .st, s, t => t.st = s.st
  | .sst, s, t => t.sst = s.sst
  | .kp, s, t => ∀ k, keyDown t.kp k = keyDown s.kp k
  | .kq, s, t => t.kq = s.kq
  | .ap, s, t => t.ap = s.ap
  | .rs, s, t => t.rs = s.rs
  | .fcause, s, t => t.fcause = s.fcause
  | .finfo, s, t => t.finfo = s.finfo
  | .mem, s, t => ∀ a : Addr, t.byteAt a = s.byteAt a
  | .cfg, s, t => t.cfg = s.cfg
  | .strobes, s, t => t.strobes = s.strobes
  | .script, s, t => t.script = s.script
  | .rndIndex, s, t => t.rndIndex = s.rndIndex
  | .nowIndex, s, t => t.nowIndex = s.nowIndex
  | .clock, s, t => t.clock = s.clock
  | .tickIndex, s, t => t.tickIndex = s.tickIndex

/-- Every part that is not listed is as before: a frame. -/
def OnlyChanges (ps : List Part) (s t : State) : Prop :=
  ∀ p : Part, p ∉ ps → p.Same s t

/-- Every register that is not listed is as before. -/
def RegsKeptExcept (rs : List Nibble) (s t : State) : Prop :=
  ∀ r : Nibble, r ∉ rs → t.reg r = s.reg r

/-- The parts the spec lets each instruction write in phase P4: the "Writers" of 10_state.md R10 to R22, the program
counter by 40_cycle_and_control.md R71, RS with FCAUSE and FINFO by 60_exceptions.md R150, R155 and 44_keypad_and_timers.md
R135, and the two free-value counters by 41_load_and_alu.md R104 and 60_exceptions.md R164. -/
def mayWrite : Instr → List Part
  | .cls => [.fb, .pc]
  | .ret => [.stack, .pc, .rs]
  | .jp _ => [.pc]
  | .call _ => [.stack, .pc, .rs, .fcause, .finfo]
  | .seImm _ _ => [.pc]
  | .sneImm _ _ => [.pc]
  | .seReg _ _ => [.pc]
  | .ldImm _ _ => [.v, .pc]
  | .addImm _ _ => [.v, .pc]
  | .ldReg _ _ => [.v, .pc]
  | .orReg _ _ => [.v, .pc]
  | .andReg _ _ => [.v, .pc]
  | .xorReg _ _ => [.v, .pc]
  | .addReg _ _ => [.v, .pc]
  | .subReg _ _ => [.v, .pc]
  | .shr _ _ => [.v, .pc]
  | .subn _ _ => [.v, .pc]
  | .shl _ _ => [.v, .pc]
  | .sneReg _ _ => [.pc]
  | .ldI _ => [.i, .pc]
  | .jpV0 _ => [.pc]
  | .rnd _ _ => [.v, .pc, .rndIndex]
  | .drw _ _ _ => [.v, .fb, .pc]
  | .skp _ => [.kp, .kq, .pc, .rs, .fcause, .finfo]
  | .sknp _ => [.kp, .kq, .pc, .rs, .fcause, .finfo]
  | .ldVxDt _ => [.v, .pc]
  | .ldVxK _ => [.v, .kp, .kq, .pc, .rs]
  | .ldDtVx _ => [.dt, .pc]
  | .ldStVx _ => [.st, .sst, .pc, .nowIndex, .clock]
  | .addI _ => [.i, .pc]
  | .ldF _ => [.i, .pc]
  | .ldB _ => [.mem, .pc, .rs, .fcause, .finfo]
  | .ldMemVx _ => [.mem, .pc, .rs, .fcause, .finfo]
  | .ldVxMem _ => [.v, .pc]

/-- The registers the spec lets each instruction write: V[x], VF for the six of 10_state.md R11, V[0] to V[x] for Fx65
(R10). -/
def mayWriteReg : Instr → Nibble → Bool
  | .ldImm x _, r => r == x
  | .addImm x _, r => r == x
  | .ldReg x _, r => r == x
  | .orReg x _, r => r == x
  | .andReg x _, r => r == x
  | .xorReg x _, r => r == x
  | .addReg x _, r => r == x || r == 15#4
  | .subReg x _, r => r == x || r == 15#4
  | .shr x _, r => r == x || r == 15#4
  | .subn x _, r => r == x || r == 15#4
  | .shl x _, r => r == x || r == 15#4
  | .rnd x _, r => r == x
  | .drw _ _ _, r => r == 15#4
  | .ldVxDt x, r => r == x
  | .ldVxK x, r => r == x
  | .ldVxMem x, r => decide (r.toNat ≤ x.toNat)
  | .cls, _ | .ret, _ | .jp _, _ | .call _, _ | .seImm _ _, _ | .sneImm _ _, _ | .seReg _ _, _ => false
  | .sneReg _ _, _ | .ldI _, _ | .jpV0 _, _ | .skp _, _ | .sknp _, _ | .ldDtVx _, _ | .ldStVx _, _ => false
  | .addI _, _ | .ldF _, _ | .ldB _, _ | .ldMemVx _, _ => false

/-- The environment's next move is a tick, one that the script fixes or one that comes because it fixes none. -/
def State.ticksNext (s : State) : Prop := s.script = [] ∨ ∃ r, s.script = .tick :: r

/-- The state phase P4 of the next cycle starts from: the state the tick finds with both timers counted down
(40_cycle_and_control.md R70 P1). -/
def State.afterP1 (s : State) : State := s.atTick.tickTimers

/-- What every step keeps and reset establishes. -/
structure State.Inv (s : State) : Prop where
  /-- memory is in its canonical form -/
  memWf : Memory.wf s.mem = true
  /-- the sound-start timestamp is a time the clock has shown (60_exceptions.md R164) -/
  sstPast : s.sst ≤ s.clock
  /-- a blocked machine stands at an Fx0A and has consumed its queue (44_keypad_and_timers.md R135) -/
  waitAtKey : s.rs = .waitKey → s.kq = [] ∧ ∃ x, decode s.fetch = some (.ldVxK x)
  /-- a finite STACK_DEPTH is never passed (60_exceptions.md R153) -/
  depth : ∀ d, s.cfg.stackDepth = some d → s.sp ≤ d
  /-- a cycle that did not complete has emitted no strobe (40_cycle_and_control.md R70) -/
  quiet : s.rs ≠ .running → s.strobes = Strobes.none
  /-- FATAL carries one of the four causes (60_exceptions.md R150) -/
  cause : s.rs = .fatal → ∃ e : Exc, s.fcause = e.code
  /-- while the sound timer runs the audio is on (60_exceptions.md R161) -/
  sounding : 0 < s.st.toNat → s.ap = true
  /-- a strobe shows the level it changed to (R161) -/
  playOn : s.strobes.play = true → s.ap = true
  /-- see `playOn` -/
  pauseOff : s.strobes.pause = true → s.ap = false

/-- A run that ended well: HALTED, never FATAL (60_exceptions.md R155). -/
def State.goodEnd (s : State) : Prop := s.rs = .halted

/-- `a` is the effective address of offset `k` (42_index_and_memory.md R110): `(I + k) mod 4096`. -/
def IsEa (s : State) (k : Nat) (a : Addr) : Prop := a.toNat = (s.i.toNat + k) % 4096

/-- Some of the `n` effective addresses from I on is in the font region (20_memory.md R35). -/
def HitsFont (s : State) (n : Nat) : Prop := ∃ k, k < n ∧ (s.i.toNat + k) % 4096 < 80

/-- The memory of `t` is that of `s` with the bytes `bytes 0`, ..., `bytes (n - 1)` stored from I on under FONT_WRITE_MODE
`ram` or `ignore` (20_memory.md R35), and every other byte as before. -/
def StoresFromI (s t : State) (n : Nat) (bytes : Nat → Byte) : Prop :=
  (∀ a : Addr, ∀ k, k < n → IsEa s k a →
    t.byteAt a = if s.cfg.fontWrite = .ignore ∧ a.toNat < 80 then s.byteAt a else bytes k) ∧
  (∀ a : Addr, (∀ k, k < n → ¬ IsEa s k a) → t.byteAt a = s.byteAt a)

/-- The last queued event of a key, if there is one (44_keypad_and_timers.md R131). -/
def lastEvent : List KeyEvent → Nibble → Option Bool
  | [], _ => none
  | e :: q, k => match lastEvent q k with
    | some p => some p
    | none => if e.key = k then some e.pressed else none

/-- The latch after a drain (R131): "each `KP[k]` reflects the last event for key `k`", or is unchanged. -/
def LatchAfter (s : State) (q : List KeyEvent) (k : Nibble) : Bool := (lastEvent q k).getD (keyDown s.kp k)

/-- The sprite bit that lands on a pixel of a draw at column `x0`, row `y0` with `n` rows: the pixel's distance from the
start, wrapping, is inside the 8 by n sprite and the sprite byte has that bit (43_display.md R121). -/
def spriteCovers (s : State) (x0 y0 n : Nat) (row : Row) (col : Col) : Bool :=
  let r := (row.toNat + 32 - y0 % 32) % 32
  let c := (col.toNat + 64 - x0 % 64) % 64
  decide (r < n) && decide (c < 8) && (s.byteAt (BitVec.ofNat 12 (s.i.toNat + r))).getLsbD (7 - c)

/-- `t` holds what phase P5 decides from `u` (60_exceptions.md R161): ST above 0 puts or keeps the audio on; ST = 0 with
the audio off leaves it off; ST = 0 with the audio on reads the clock and pauses exactly from SST + HOLD_MS on; play and pause
strobes only on a change. (The strobes' form is the spec's decision D19; the clock is a free value, log 5.) -/
def AudioDecided (u t : State) : Prop :=
  (0 < u.st.toNat → t.ap = true ∧ t.strobes.play = !u.ap ∧ t.strobes.pause = false) ∧
  (u.st.toNat = 0 → u.ap = false → t.ap = false ∧ t.strobes.play = false ∧ t.strobes.pause = false) ∧
  (u.st.toNat = 0 → u.ap = true → t.clock = u.clock + Config.timeStep u.nowIndex ∧
    t.strobes.play = false ∧
    (u.sst + Config.holdMs ≤ t.clock → t.ap = false ∧ t.strobes.pause = true) ∧
    (t.clock < u.sst + Config.holdMs → t.ap = true ∧ t.strobes.pause = false))

/-- Two states that differ at most in bits 15 to 12 of I (10_state.md R12). -/
def SameButIndexTop (s s' : State) : Prop :=
  s.i.toNat % 4096 = s'.i.toNat % 4096 ∧ s' = { s with i := s'.i }

end Sys2Proof.Machine
end

