-- ==== Sys2Proof/Certificates/Slice0/Obligations.lean ====
section
/-! DEFINITION. The statements for the provers, taken from the numbered rules of spec/ file by file. -/

open Sys2Proof Sys2Proof.Machine

/-! ### Encoding (30_encoding.md) -/

/-- 30_encoding.md R51 to R53: the encoder drops no bit of any instruction, with every operand at every value. -/
def Obligations.DecodeOfEncodeIsTheInstruction : Prop :=
  ∀ i : Instr, decode (encode i) = some i

/-- 30_encoding.md R52 to R54: a legal word has one meaning, and encoding that meaning gives the word back. -/
def Obligations.EncodeOfDecodeIsTheWord : Prop :=
  ∀ (op : Word) (i : Instr), decode op = some i → encode i = op

/-- 30_encoding.md R53, R54, R56: the decoding procedure accepts exactly the words some row of the opcode map selects by
mask and match, and no word selects two rows. (That the rows 5xy0 and 9xy0 are taken literally is the spec's decision D29, log
35.) -/
def Obligations.DecodeAcceptsExactlyTheWordsOfOneRow : Prop :=
  (∀ op : Word, (decode op).isSome = legalWord op) ∧
  (∀ (op : Word) (r r' : OpcodeRow), r ∈ opcodeRows → r' ∈ opcodeRows →
    r.selects op = true → r'.selects op = true → r = r')

/-- 30_encoding.md R56: the illegal words are exactly those of its table, family by family. -/
def Obligations.IllegalWordsAreThoseOfTheTable : Prop :=
  ∀ op : Word, decode op = none ↔
    (op.toNat / 4096 = 0x0 ∧ op.toNat % 4096 ≠ 0x0E0 ∧ op.toNat % 4096 ≠ 0x0EE) ∨
    (op.toNat / 4096 = 0x5 ∧ 1 ≤ op.toNat % 16) ∨
    (op.toNat / 4096 = 0x8 ∧ op.toNat % 16 ∈ [0x8, 0x9, 0xA, 0xB, 0xC, 0xD, 0xF]) ∨
    (op.toNat / 4096 = 0x9 ∧ 1 ≤ op.toNat % 16) ∨
    (op.toNat / 4096 = 0xE ∧ op.toNat % 256 ∉ [0x9E, 0xA1]) ∨
    (op.toNat / 4096 = 0xF ∧ op.toNat % 256 ∉ [0x07, 0x0A, 0x15, 0x18, 0x1E, 0x29, 0x33, 0x55, 0x65])

/-- 30_encoding.md R53: words written out from the patterns decode to the instructions they stand for, one for each
of the 16 families and each format, and 0x0000 to none. A sanity statement; a word of every constructor stands in the tests. -/
def Obligations.SpecWordsDecodeAsWritten : Prop :=
  decode 0x00E0#16 = some .cls ∧ decode 0x00EE#16 = some .ret ∧
  decode 0x1ABC#16 = some (.jp 0xABC#12) ∧ decode 0x2FFE#16 = some (.call 0xFFE#12) ∧
  decode 0x3A7F#16 = some (.seImm 0xA#4 0x7F#8) ∧ decode 0x4F00#16 = some (.sneImm 0xF#4 0x00#8) ∧
  decode 0x5AB0#16 = some (.seReg 0xA#4 0xB#4) ∧ decode 0x6C2A#16 = some (.ldImm 0xC#4 0x2A#8) ∧
  decode 0x7001#16 = some (.addImm 0x0#4 0x01#8) ∧ decode 0x9120#16 = some (.sneReg 0x1#4 0x2#4) ∧
  decode 0xB345#16 = some (.jpV0 0x345#12) ∧ decode 0xC30F#16 = some (.rnd 0x3#4 0x0F#8) ∧
  decode 0x8124#16 = some (.addReg 0x1#4 0x2#4) ∧ decode 0xA123#16 = some (.ldI 0x123#12) ∧
  decode 0xD125#16 = some (.drw 0x1#4 0x2#4 0x5#4) ∧ decode 0xE59E#16 = some (.skp 0x5#4) ∧
  decode 0xF20A#16 = some (.ldVxK 0x2#4) ∧ decode 0x0000#16 = none

/-! ### The cycle (40_cycle_and_control.md section 1, 60_exceptions.md) -/

/-- 40_cycle_and_control.md R70: when the two bytes at `pc` and `pc + 1` decode to an instruction and a tick comes to a
running machine, that instruction's meaning answers a next state from the state phase P1 left, and the step is that next
state, followed by P5 and P6 exactly when the machine is still running. (That P5 and P6 follow P4, and are skipped when the
machine is no longer running, is the spec's decision D13, log 27; that the move comes from the script is the model's choice,
log 2.) -/
def Obligations.StepRunsTheDecodedInstruction : Prop :=
  ∀ (s : State) (i : Instr), s.rs = .running → s.ticksNext →
    decode (wordOfBytes (s.byteAt s.pc) (s.byteAt (s.pc + 1#12))) = some i →
    ∃ t, exec i s.afterP1 = .next t ∧
      (t.rs = .running → step s = .next t.audio.render) ∧
      (t.rs ≠ .running → step s = .next t)

/-- 20_memory.md R36: the fetched word is 256 times the byte at `pc` plus the byte at `pc + 1` modulo 4096. -/
def Obligations.FetchIsBigEndianAndWraps : Prop :=
  ∀ (s : State) (a : Addr), a.toNat = (s.pc.toNat + 1) % 4096 →
    s.fetch.toNat = 256 * (s.byteAt s.pc).toNat + (s.byteAt a).toNat

/-- 70_reset_and_hazards.md R195, 60_exceptions.md R163: a tick finds the state the step before left, with whatever key events
came before it at the end of KQ in their order; what comes is free when the script fixes no move, and nothing comes when
it fixes the tick. (The script is log 2, the free events log 36; ticks without a bound are the spec's decision D26.) -/
def Obligations.TickFindsTheKeysThatCameBeforeIt : Prop :=
  ∀ s : State, s.ticksNext →
    s.atTick.kq = s.kq ++ s.arrivals ∧ (s.script ≠ [] → s.arrivals = []) ∧
    (s.script = [] → s.arrivals.map (fun e => (e.key, e.pressed)) = Config.keyArrivals s.tickIndex) ∧
    s.atTick.script = s.script.tail ∧ (s.script = [] → s.atTick.ticksNext) ∧
    s.atTick.strobes = Strobes.none ∧ OnlyChanges [.strobes, .script, .kq, .tickIndex] s s.atTick

/-- 60_exceptions.md R160: a cycle's phase P1 takes one off each timer, stopping at 0, and no other state changes in it;
in the other run states a tick decrements nothing. The timers' values after a whole cycle are these unless the
cycle's instruction is the one that writes that timer. (That a tick answers a next state in HALTED and FATAL, where the core
has no step by 40_cycle_and_control.md R72, is the model's choice, log 15; what a tick finds, logs 2, 36.) -/
def Obligations.TimersFallByOnePerCycleAndStopAtZero : Prop :=
  ∀ s : State, s.ticksNext → ∃ t, step s = .next t ∧
    (s.rs = .running → (∀ x, decode s.fetch ≠ some (.ldDtVx x)) → t.dt.toNat = s.dt.toNat - 1) ∧
    (s.rs = .running → (∀ x, decode s.fetch ≠ some (.ldStVx x)) → t.st.toNat = s.st.toNat - 1) ∧
    (s.rs = .running → s.afterP1.dt.toNat = s.dt.toNat - 1 ∧ s.afterP1.st.toNat = s.st.toNat - 1 ∧
      OnlyChanges [.dt, .st] s.atTick s.afterP1) ∧
    (s.rs ≠ .running → t.dt = s.dt ∧ t.st = s.st)

/-- 60_exceptions.md R151, R152: a fetched word of no row ends the cycle in FATAL, after P1 and before any other
effect: FCAUSE = 1, FINFO the word, `pc` unmoved, no strobe. (The codes and what a stopped machine holds are the spec's decision
D14.) -/
def Obligations.IllegalWordEntersFatal : Prop :=
  ∀ s : State, s.rs = .running → s.ticksNext → decode s.fetch = none →
    ∃ t, step s = .next t ∧ t.rs = .fatal ∧ t.fcause.toNat = 1 ∧ t.finfo = s.fetch ∧
      t.dt.toNat = s.dt.toNat - 1 ∧ t.st.toNat = s.st.toNat - 1 ∧ t.strobes = Strobes.none ∧
      OnlyChanges [.dt, .st, .rs, .fcause, .finfo] s.atTick t

/-- 40_cycle_and_control.md R72, 60_exceptions.md R165, 44_keypad_and_timers.md R137: a tick in HALTED, FATAL, or WAITKEY
with nothing queued changes nothing: no timer, no audio, no strobe; key events that came before it stay queued. (That the core
answers a next state there is the model's choice, log 15; what a tick finds, logs 2, 36.) -/
def Obligations.TickOutsideRunningChangesNothing : Prop :=
  ∀ s : State, s.ticksNext → (s.rs = .halted ∨ s.rs = .fatal ∨ (s.rs = .waitKey ∧ s.atTick.kq = [])) →
    ∃ t, step s = .next t ∧ t.strobes = Strobes.none ∧ t.script = s.script.tail ∧ t.kq = s.kq ++ s.arrivals ∧
      OnlyChanges [] s.atTick t ∧ OnlyChanges [.strobes, .script, .kq, .tickIndex] s t

/-- 70_reset_and_hazards.md R195, 44_keypad_and_timers.md R135, R137, 40_cycle_and_control.md R70, R72: whether a wait in Fx0A
ends is the environment's affair. A tick leaves the machine RUNNING exactly when a press stands queued or came before it, and
waiting exactly when none does, and no timer moves. The first press is taken as Fx0A takes it: the latch shows the last of
the events popped, V[x] is its key, the events behind it stay, the machine runs on at `pc + 2`, P5 decides the audio and P6
renders. With releases only, they are popped and applied and nothing else happens. Where the script fixes no move, what
comes is free (logs 2, 36), so a claim that a wait ends has to take it as a premise. (A wait resumed from the state: log 17;
the spec's decisions D26, D27, log 33, and for P5 and P6 D13, log 27, and D19, log 18; the clock is a free value, log 5.) -/
def Obligations.WaitEndsExactlyWhenAPressComes : Prop :=
  ∀ (s : State) (x : Nibble), s.rs = .waitKey → decode s.fetch = some (.ldVxK x) → s.ticksNext →
    ∃ t, step s = .next t ∧ t.dt = s.dt ∧ t.st = s.st ∧
      (t.rs = .running ↔ ∃ e ∈ s.kq ++ s.arrivals, e.pressed = true) ∧
      (t.rs = .waitKey ↔ ∀ e ∈ s.kq ++ s.arrivals, e.pressed = false) ∧
      (∀ (k : Nibble) (before after : List KeyEvent),
        s.kq ++ s.arrivals = before ++ { key := k, pressed := true } :: after → (∀ e ∈ before, e.pressed = false) →
        (t.reg x).toNat = k.toNat ∧ RegsKeptExcept [x] s t ∧ t.kq = after ∧
          (∀ j, keyDown t.kp j = LatchAfter s (before ++ [{ key := k, pressed := true }]) j) ∧
          t.pc.toNat = (s.pc.toNat + 2) % 4096 ∧ AudioDecided s t ∧ t.strobes.render = true ∧
          OnlyChanges [.v, .kp, .kq, .rs, .pc, .ap, .strobes, .script, .nowIndex, .clock, .tickIndex] s t) ∧
      ((∀ e ∈ s.kq ++ s.arrivals, e.pressed = false) →
        t.kq = [] ∧ (∀ j, keyDown t.kp j = LatchAfter s (s.kq ++ s.arrivals) j) ∧ t.strobes = Strobes.none ∧
          OnlyChanges [.kp, .kq, .strobes, .script, .tickIndex] s t)

/-- 60_exceptions.md R163: a key event that arrives in any run state but WAITKEY is appended to KQ and has no other
effect. (That it lands between steps is log 3; that the queue is never full, decision D12, log 21.) -/
def Obligations.KeyEventIsQueuedInOrder : Prop :=
  ∀ (s : State) (e : KeyEvent) (r : List EnvMove), s.script = .key e :: r → s.rs ≠ .waitKey →
    ∃ t, step s = .next t ∧ t.kq = s.kq ++ [e] ∧ t.script = r ∧ t.strobes = Strobes.none ∧
      OnlyChanges [.kq, .strobes, .script] s t

/-- 44_keypad_and_timers.md R135, 40_cycle_and_control.md R70, R72: a press that arrives while an Fx0A waits ends the wait at
once: the latch and V[x] take the key, the machine runs on at `pc + 2`, P5 decides the audio and P6 renders in the same
cycle, and no timer has moved. (The place of P5 and P6 is the spec's decision D13, log 27, the strobes' form D19, log 18; the
clock is a free value, log 5; that the event lands between steps, log 3.) -/
def Obligations.PressEndsTheWait : Prop :=
  ∀ (s : State) (x k : Nibble) (r : List EnvMove), s.rs = .waitKey → s.kq = [] →
    decode s.fetch = some (.ldVxK x) → s.script = .key { key := k, pressed := true } :: r →
    ∃ t, step s = .next t ∧ t.rs = .running ∧ (t.reg x).toNat = k.toNat ∧ RegsKeptExcept [x] s t ∧
      keyDown t.kp k = true ∧ (∀ j, j ≠ k → keyDown t.kp j = keyDown s.kp j) ∧ t.kq = [] ∧
      t.pc = s.pc + 2#12 ∧ t.dt = s.dt ∧ t.st = s.st ∧ AudioDecided s t ∧ t.strobes.render = true ∧
      OnlyChanges [.v, .kp, .rs, .pc, .ap, .strobes, .script, .nowIndex, .clock] s t

/-- 44_keypad_and_timers.md R135: a release that arrives while an Fx0A waits is popped and applied, and the machine goes
on waiting. (That the event lands between steps is log 3, that the wait is resumed from the state log 17.) -/
def Obligations.ReleaseKeepsTheWait : Prop :=
  ∀ (s : State) (x k : Nibble) (r : List EnvMove), s.rs = .waitKey → s.kq = [] →
    decode s.fetch = some (.ldVxK x) → s.script = .key { key := k, pressed := false } :: r →
    ∃ t, step s = .next t ∧ t.rs = .waitKey ∧ keyDown t.kp k = false ∧
      (∀ j, j ≠ k → keyDown t.kp j = keyDown s.kp j) ∧ t.kq = [] ∧ t.strobes = Strobes.none ∧
      OnlyChanges [.kp, .strobes, .script] s t

/-- 60_exceptions.md R162: a step issues the render strobe exactly when a cycle completes in it. The cycle of a running
machine issues it exactly when it ends RUNNING, never when it halts, faults or blocks; the cycle of a blocked Fx0A issues it
in the step, a tick or a key event, that finds a press in the queue, and no step of the wait before it does; a tick of a stopped
machine, a key event outside a wait, and a reset issue none. (Strobes as the last step's outputs: log 18. The terminating
cycle: the spec's decision D13. A wait resumed from the state: log 17. That a tick answers a next state in HALTED and FATAL:
log 15. That an event lands between steps: log 3. What a tick finds: logs 2, 36. That a reset is a step of its own: logs 2, 19.) -/
def Obligations.RenderStrobeOncePerCompletedCycle : Prop :=
  (∀ s : State, s.rs = .running → s.ticksNext →
    ∃ t, step s = .next t ∧ (t.strobes.render = true ↔ t.rs = .running)) ∧
  (∀ s : State, s.rs = .waitKey → s.ticksNext →
    ∃ t, step s = .next t ∧ (t.strobes.render = true ↔ t.rs = .running) ∧
      (t.strobes.render = true ↔ ∃ e ∈ s.kq ++ s.arrivals, e.pressed = true)) ∧
  (∀ s : State, s.rs = .halted ∨ s.rs = .fatal → s.ticksNext →
    ∃ t, step s = .next t ∧ t.strobes.render = false) ∧
  (∀ (s : State) (e : KeyEvent) (r : List EnvMove), s.rs = .waitKey → s.script = .key e :: r →
    ∃ t, step s = .next t ∧ (t.strobes.render = true ↔ t.rs = .running) ∧
      (t.strobes.render = true ↔ ∃ e' ∈ s.kq ++ [e], e'.pressed = true)) ∧
  (∀ (s : State) (e : KeyEvent) (r : List EnvMove), s.rs ≠ .waitKey → s.script = .key e :: r →
    ∃ t, step s = .next t ∧ t.strobes.render = false) ∧
  (∀ (s : State) (image : List Byte) (r : List EnvMove), s.script = .reset image :: r → image.length ≤ 3584 →
    ∃ t, step s = .next t ∧ t.strobes.render = false)

/-- 60_exceptions.md R161: in P5 of a completed cycle, with ST as the instruction left it, the audio plays while ST is
above 0 and is paused when ST is 0, it was playing and 50 ms have passed since SST; strobes only on a change. The same P5
follows a cycle that a press resumes from its wait, whether a tick finds the press queued or the press itself arrives in
the wait, whatever else stands queued (40_cycle_and_control.md R70). (The place of P5 and the edge form are the spec's decisions D13, log 27, and D19, log 18; the clock is a free value, D16, log 5; a
wait resumed from the state, log 17; what a tick finds, logs 2, 36; an event between steps, log 3.) -/
def Obligations.AudioFollowsTheSoundTimer : Prop :=
  (∀ (s u : State) (i : Instr), s.rs = .running → s.ticksNext → decode s.fetch = some i →
    exec i s.afterP1 = .next u → u.rs = .running →
    ∃ t, step s = .next t ∧ OnlyChanges [.ap, .strobes, .nowIndex, .clock] u t ∧ AudioDecided u t) ∧
  (∀ (s : State) (x k : Nibble) (r : List EnvMove), s.rs = .waitKey → decode s.fetch = some (.ldVxK x) →
    s.script = .key { key := k, pressed := true } :: r →
    ∃ t, step s = .next t ∧ t.rs = .running ∧ t.st = s.st ∧ t.sst = s.sst ∧ AudioDecided s t) ∧
  (∀ (s : State) (x : Nibble), s.rs = .waitKey → decode s.fetch = some (.ldVxK x) → s.ticksNext →
    (∃ e ∈ s.kq ++ s.arrivals, e.pressed = true) →
    ∃ t, step s = .next t ∧ t.rs = .running ∧ t.st = s.st ∧ t.sst = s.sst ∧ AudioDecided s t)

/-- 20_memory.md R32, 60_exceptions.md R152, R155, R170 with 70_reset_and_hazards.md R181: from every state the core
answers a next state, except when the environment asserts reset with an image over 3584 bytes, and that is refused. (That an
exception is a next state is log 16; that a tick of a HALTED or FATAL core, which has no step by 40_cycle_and_control.md R72,
answers a next state is the model's choice, log 15; the refusal is the spec's decision D21, log 20.) -/
def Obligations.StepStopsOnlyForAnOverlongImage : Prop :=
  ∀ s : State, (∃ t, step s = .next t) ∨
    (∃ (image : List Byte) (r : List EnvMove), s.script = .reset image :: r ∧ 3584 < image.length ∧
      step s = .refused .imageTooLong)

/-- 00_scope.md R5, R6, 60_exceptions.md R164: a step takes one move off the script, never changes a parameter, and never
turns the clock back. (The script, the fixed parameters and the free values' counters are the model's choices, logs 1, 2, 4, 5, 36; that
time does not go back is the spec's decision D16.) -/
def Obligations.StepKeepsParametersAndTimeGoesForward : Prop :=
  ∀ s t : State, step s = .next t →
    t.cfg = s.cfg ∧ t.script = s.script.tail ∧ s.clock ≤ t.clock ∧ s.nowIndex ≤ t.nowIndex ∧
      s.rndIndex ≤ t.rndIndex ∧ s.tickIndex ≤ t.tickIndex

/-! ### Reset (10_state.md R25, 20_memory.md R33, 70_reset_and_hazards.md) -/

/-- 10_state.md R25, 20_memory.md R33, 70_reset_and_hazards.md R180, R181: reset with an image of at most 3584 bytes leaves
every piece of state the rule gives a value at that value, whatever the parameters. (I, KP, KQ, AP, RS and the bytes
0x050 to 0x1FF rest on the spec's decisions D7, D12, D14.) -/
def Obligations.ResetLeavesTheTabledValues : Prop :=
  ∀ (cfg : Params) (image : List Byte), image.length ≤ 3584 →
    ∃ s, State.boot cfg image = some s ∧ s.cfg = cfg ∧ (∀ r, s.reg r = 0#8) ∧ s.i = 0#16 ∧ s.pc = 0x200#12 ∧
      s.sp = 0 ∧ (∀ row col, getPixel s.fb row col = false) ∧ s.dt = 0#8 ∧ s.st = 0#8 ∧
      (∀ k, keyDown s.kp k = false) ∧ s.kq = [] ∧ s.ap = false ∧ s.rs = .running ∧
      (∀ (a : Addr) (h : a.toNat < 80), s.byteAt a = cfg.font[a.toNat]) ∧
      (∀ a : Addr, 80 ≤ a.toNat → a.toNat < 0x200 → s.byteAt a = 0#8) ∧
      (∀ a : Addr, 0x200 ≤ a.toNat → s.byteAt a = image.getD (a.toNat - 0x200) 0#8)

/-- 70_reset_and_hazards.md R181 with decision D21: an image over 3584 bytes gives no initial state. -/
def Obligations.OverlongImageIsRefused : Prop :=
  ∀ (s : State) (cfg : Params) (image : List Byte) (r : List EnvMove), 3584 < image.length →
    s.script = .reset image :: r →
    State.boot cfg image = none ∧ step s = .refused .imageTooLong

/-- 70_reset_and_hazards.md R180: reset asserted in any run state gives the reset state of its image and nothing of
the previous run. (That reset may come in any run state and discards the key queue too is the spec's decision D12, log 29;
that the parameters, the rest of the script, the clock and the free values' counters are not part of the run is the model's
choice, log 19.) -/
def Obligations.ResetMoveKeepsNothingOfTheRun : Prop :=
  ∀ (s : State) (image : List Byte) (r : List EnvMove), s.script = .reset image :: r → image.length ≤ 3584 →
    ∃ b t, State.boot s.cfg image = some b ∧ step s = .next t ∧ t.script = r ∧
      t.clock = s.clock ∧ t.nowIndex = s.nowIndex ∧ t.rndIndex = s.rndIndex ∧ t.tickIndex = s.tickIndex ∧
      OnlyChanges [.script, .clock, .nowIndex, .rndIndex, .tickIndex] b t

/-! ### Whole-machine rules -/

/-- Every step keeps the invariant `State.Inv` (Safety.lean): memory canonical, SST in the past, a waiting machine at an
Fx0A with its queue consumed, the stack within STACK_DEPTH, no strobe without a completed cycle, FATAL with a cause, the
audio on while ST runs. Rests on 20_memory.md R30, 10_state.md R14, R22, 40_cycle_and_control.md R70, 60_exceptions.md
R150, R161, R164. (After a reset move SST is in the past only because the model resets SST to 0, log 6, where the spec leaves it
any value; the clock that a reset keeps is log 19, the resumed wait log 17; the strobes' clauses rest on decisions D13, D19,
logs 27, 18; the causes on D14, log 16; the depth on D9, log 30.) -/
def Obligations.StepKeepsTheInvariant : Prop :=
  ∀ s t : State, s.Inv → step s = .next t → t.Inv

/-- The state after reset meets the invariant, with every image and all parameters. (That SST is in the past there rests on the
model's own reset value 0 of SST, log 6, where the spec leaves it any value.) -/
def Obligations.ResetMeetsTheInvariant : Prop :=
  State.reset.Inv ∧ ∀ (cfg : Params) (image : List Byte) (s : State), State.boot cfg image = some s → s.Inv

/-- 10_state.md R10 to R22 ("Writers"), 20_memory.md R40, 40_cycle_and_control.md R71: an instruction writes only the parts,
and only the registers, the spec names for it (`mayWrite`, `mayWriteReg` of Safety.lean), whatever its operands and
wherever it ends. (That 8xy1, 8xy2, 8xy3 and Fx1E leave VF and that Fx33, Fx55 and Fx65 leave I are the spec's decisions D23 and
D22, log 32; that an exception writes RS, FCAUSE and FINFO only is D14, log 16.) -/
def Obligations.InstructionsWriteOnlyWhatTheSpecNames : Prop :=
  ∀ (i : Instr) (s t : State), exec i s = .next t →
    OnlyChanges (mayWrite i) s t ∧ ∀ r, mayWriteReg i r = false → t.reg r = s.reg r

/-- 40_cycle_and_control.md R71, R74: an instruction that is no jump, call or return leaves `pc` at `pc + 2`, or at `pc + 4`
if it is one of the six skips, or unmoved with the machine FATAL or WAITKEY; so an odd `pc` stays odd (10_state.md R13). -/
def Obligations.ProgramCounterMovesByTwoOrFour : Prop :=
  ∀ (i : Instr) (s t : State), exec i s = .next t → i ≠ .ret →
    (∀ nnn, i ≠ .jp nnn ∧ i ≠ .call nnn ∧ i ≠ .jpV0 nnn) →
    (t.pc.toNat = (s.pc.toNat + 2) % 4096 ∨
      (t.pc.toNat = (s.pc.toNat + 4) % 4096 ∧
        ((∃ x nn, i = .seImm x nn ∨ i = .sneImm x nn) ∨ (∃ x y, i = .seReg x y ∨ i = .sneReg x y) ∨
          (∃ x, i = .skp x ∨ i = .sknp x))) ∨
      (t.pc = s.pc ∧ (t.rs = .fatal ∨ t.rs = .waitKey))) ∧
    t.pc.toNat % 2 = s.pc.toNat % 2

/-- 10_state.md R12: only I modulo 4096 is observable: from two states that differ at most in bits 15 to 12 of I, a step
gives two states that differ at most there, with the same outputs, or the same stop. -/
def Obligations.IndexTopBitsAreUnobservable : Prop :=
  ∀ s s' : State, SameButIndexTop s s' →
    (∃ t t', step s = .next t ∧ step s' = .next t' ∧ SameButIndexTop t t' ∧ t.outputs = t'.outputs) ∨
    (∃ r, step s = .refused r ∧ step s' = .refused r)

/-! ### Control transfer (40_cycle_and_control.md section 2) -/

/-- R77 JP nnn. -/
def Obligations.JumpGoesToItsTarget : Prop :=
  ∀ (nnn : Addr) (s : State), ∃ t, exec (.jp nnn) s = .next t ∧ t.pc = nnn ∧ OnlyChanges [.pc] s t

/-- R80 JP V0, nnn: the register is V[0] whatever nnn is. -/
def Obligations.JumpWithOffsetAddsV0 : Prop :=
  ∀ (nnn : Addr) (s : State), ∃ t, exec (.jpV0 nnn) s = .next t ∧
    t.pc.toNat = (nnn.toNat + (s.reg 0#4).toNat) % 4096 ∧ OnlyChanges [.pc] s t

/-- R78 CALL nnn with room on the stack: the address of the call itself becomes the newest frame. (That this is the frame
held is the spec's decision D3.) -/
def Obligations.CallPushesItsOwnAddress : Prop :=
  ∀ (nnn : Addr) (s : State), (∀ d, s.cfg.stackDepth = some d → s.sp < d) →
    ∃ t, exec (.call nnn) s = .next t ∧ t.pc = nnn ∧ t.sp = s.sp + 1 ∧ t.frame s.sp = some s.pc ∧
      (∀ k, k < s.sp → t.frame k = s.frame k) ∧ OnlyChanges [.pc, .stack] s t

/-- R78, 60_exceptions.md R153: with a finite STACK_DEPTH reached, CALL raises StackOverflow(pc) and has no effect of its
own. (The spec's decisions D9, D14.) -/
def Obligations.CallOnAFullStackOverflows : Prop :=
  ∀ (nnn : Addr) (s : State) (d : Nat), s.cfg.stackDepth = some d → s.sp = d →
    ∃ t, exec (.call nnn) s = .next t ∧ t.rs = .fatal ∧ t.fcause.toNat = 2 ∧ t.finfo.toNat = s.pc.toNat ∧
      OnlyChanges [.rs, .fcause, .finfo] s t

/-- R79 RET with a frame: the newest frame is popped and execution goes on 2 after the address it holds. (The spec's
decision D3.) -/
def Obligations.ReturnResumesAfterTheCall : Prop :=
  ∀ (s : State) (a : Addr), 0 < s.sp → s.frame (s.sp - 1) = some a →
    ∃ t, exec .ret s = .next t ∧ t.pc.toNat = (a.toNat + 2) % 4096 ∧ t.sp = s.sp - 1 ∧
      (∀ k, k < t.sp → t.frame k = s.frame k) ∧ OnlyChanges [.pc, .stack] s t

/-- R79, 60_exceptions.md R155: RET on the empty stack halts and changes nothing else; the cycle emits no strobe (decision
D13). -/
def Obligations.ReturnOnTheEmptyStackHalts : Prop :=
  (∀ s : State, s.sp = 0 → ∃ t, exec .ret s = .next t ∧ t.rs = .halted ∧ OnlyChanges [.rs] s t) ∧
  (∀ s : State, s.rs = .running → s.ticksNext → decode s.fetch = some .ret → s.sp = 0 →
    ∃ t, step s = .next t ∧ t.rs = .halted ∧ t.strobes = Strobes.none ∧
      OnlyChanges [.rs, .dt, .st] s.atTick t)

/-- R86: a CALL, any balanced execution that leaves SP and its frame as the CALL left them, and a RET bring SP back and
`pc` to 2 after the CALL. (R86 is the spec's own inference from its decision D3, log 13.) -/
def Obligations.CallAndReturnRoundTrip : Prop :=
  ∀ (s t m : State) (nnn : Addr), (∀ d, s.cfg.stackDepth = some d → s.sp < d) →
    exec (.call nnn) s = .next t → m.sp = s.sp + 1 → m.frame s.sp = t.frame s.sp →
    ∃ u, exec .ret m = .next u ∧ m.frame s.sp = some s.pc ∧ u.sp = s.sp ∧
      u.pc.toNat = (s.pc.toNat + 2) % 4096

/-- R81, R82, R83, R84: the four register skips move `pc` by 4 when their condition holds and by 2 when it does not,
and change nothing else. -/
def Obligations.SkipsTestTheirCondition : Prop :=
  (∀ (x : Nibble) (nn : Byte) (s : State), ∃ t, exec (.seImm x nn) s = .next t ∧ OnlyChanges [.pc] s t ∧
    t.pc.toNat = (s.pc.toNat + if (s.reg x).toNat = nn.toNat then 4 else 2) % 4096) ∧
  (∀ (x : Nibble) (nn : Byte) (s : State), ∃ t, exec (.sneImm x nn) s = .next t ∧ OnlyChanges [.pc] s t ∧
    t.pc.toNat = (s.pc.toNat + if (s.reg x).toNat = nn.toNat then 2 else 4) % 4096) ∧
  (∀ (x y : Nibble) (s : State), ∃ t, exec (.seReg x y) s = .next t ∧ OnlyChanges [.pc] s t ∧
    t.pc.toNat = (s.pc.toNat + if (s.reg x).toNat = (s.reg y).toNat then 4 else 2) % 4096) ∧
  (∀ (x y : Nibble) (s : State), ∃ t, exec (.sneReg x y) s = .next t ∧ OnlyChanges [.pc] s t ∧
    t.pc.toNat = (s.pc.toNat + if (s.reg x).toNat = (s.reg y).toNat then 2 else 4) % 4096)

/-! ### Load, arithmetic, logic, shift, random (41_load_and_alu.md) -/

/-- R92, R93, R94: the two loads, and the immediate add that wraps modulo 256 and sets no flag: every register but V[x]
is unchanged, VF among them unless x is 15. -/
def Obligations.LoadsAndImmediateAdd : Prop :=
  (∀ (x : Nibble) (nn : Byte) (s : State), ∃ t, exec (.ldImm x nn) s = .next t ∧ t.reg x = nn ∧
    RegsKeptExcept [x] s t ∧ t.pc.toNat = (s.pc.toNat + 2) % 4096 ∧ OnlyChanges [.v, .pc] s t) ∧
  (∀ (x : Nibble) (nn : Byte) (s : State), ∃ t, exec (.addImm x nn) s = .next t ∧
    (t.reg x).toNat = ((s.reg x).toNat + nn.toNat) % 256 ∧
    RegsKeptExcept [x] s t ∧ t.pc.toNat = (s.pc.toNat + 2) % 4096 ∧ OnlyChanges [.v, .pc] s t) ∧
  (∀ (x y : Nibble) (s : State), ∃ t, exec (.ldReg x y) s = .next t ∧ t.reg x = s.reg y ∧
    RegsKeptExcept [x] s t ∧ t.pc.toNat = (s.pc.toNat + 2) % 4096 ∧ OnlyChanges [.v, .pc] s t)

/-- R95, R96, R97: each of the eight bits of V[x] by itself; VF untouched unless x is 15. (That VF is untouched is the
spec's own inference, its decision D23, log 32.) -/
def Obligations.BitwiseOperationsActBitByBit : Prop :=
  (∀ (x y : Nibble) (s : State), ∃ t, exec (.orReg x y) s = .next t ∧
    (∀ k, k < 8 → (t.reg x).getLsbD k = ((s.reg x).getLsbD k || (s.reg y).getLsbD k)) ∧
    RegsKeptExcept [x] s t ∧ t.pc.toNat = (s.pc.toNat + 2) % 4096 ∧ OnlyChanges [.v, .pc] s t) ∧
  (∀ (x y : Nibble) (s : State), ∃ t, exec (.andReg x y) s = .next t ∧
    (∀ k, k < 8 → (t.reg x).getLsbD k = ((s.reg x).getLsbD k && (s.reg y).getLsbD k)) ∧
    RegsKeptExcept [x] s t ∧ t.pc.toNat = (s.pc.toNat + 2) % 4096 ∧ OnlyChanges [.v, .pc] s t) ∧
  (∀ (x y : Nibble) (s : State), ∃ t, exec (.xorReg x y) s = .next t ∧
    (∀ k, k < 8 → (t.reg x).getLsbD k = ((s.reg x).getLsbD k != (s.reg y).getLsbD k)) ∧
    RegsKeptExcept [x] s t ∧ t.pc.toNat = (s.pc.toNat + 2) % 4096 ∧ OnlyChanges [.v, .pc] s t)

/-- R98 ADD Vx, Vy, every row of its table: the sum modulo 256 in V[x] unless x is 15, and VF the carry in every case.
(The rows with an operand 15 rest on the spec's decision D4.) -/
def Obligations.AddSetsTheCarryLast : Prop :=
  ∀ (x y : Nibble) (s : State), ∃ t, exec (.addReg x y) s = .next t ∧
    (x ≠ 15#4 → (t.reg x).toNat = ((s.reg x).toNat + (s.reg y).toNat) % 256) ∧
    (t.reg 15#4).toNat = (if 256 ≤ (s.reg x).toNat + (s.reg y).toNat then 1 else 0) ∧
    RegsKeptExcept [x, 15#4] s t ∧ t.pc.toNat = (s.pc.toNat + 2) % 4096 ∧ OnlyChanges [.v, .pc] s t

/-- R99 SUB Vx, Vy, every row of its table: the flag, strictly greater, is written first and read again where an operand
is 15 (the spec's decision D4). -/
def Obligations.SubtractFlagsStrictlyGreaterFirst : Prop :=
  ∀ (x y : Nibble) (s : State), ∃ t f, exec (.subReg x y) s = .next t ∧
    f = (if (s.reg y).toNat < (s.reg x).toNat then 1 else 0) ∧
    (x ≠ 15#4 → y ≠ 15#4 → (t.reg x).toNat = ((s.reg x).toNat + 256 - (s.reg y).toNat) % 256 ∧
      (t.reg 15#4).toNat = f) ∧
    (x ≠ 15#4 → y = 15#4 → (t.reg x).toNat = ((s.reg x).toNat + 256 - f) % 256 ∧ (t.reg 15#4).toNat = f) ∧
    (x = 15#4 → y ≠ 15#4 → (t.reg 15#4).toNat = (f + 256 - (s.reg y).toNat) % 256) ∧
    (x = 15#4 → y = 15#4 → (t.reg 15#4).toNat = 0) ∧
    RegsKeptExcept [x, 15#4] s t ∧ t.pc.toNat = (s.pc.toNat + 2) % 4096 ∧ OnlyChanges [.v, .pc] s t

/-- R101 SUBN Vx, Vy, every row of its table (decision D4 where an operand is 15). -/
def Obligations.ReverseSubtractFlagsStrictlyGreaterFirst : Prop :=
  ∀ (x y : Nibble) (s : State), ∃ t f, exec (.subn x y) s = .next t ∧
    f = (if (s.reg x).toNat < (s.reg y).toNat then 1 else 0) ∧
    (x ≠ 15#4 → y ≠ 15#4 → (t.reg x).toNat = ((s.reg y).toNat + 256 - (s.reg x).toNat) % 256 ∧
      (t.reg 15#4).toNat = f) ∧
    (x ≠ 15#4 → y = 15#4 → (t.reg x).toNat = (f + 256 - (s.reg x).toNat) % 256 ∧ (t.reg 15#4).toNat = f) ∧
    (x = 15#4 → y ≠ 15#4 → (t.reg 15#4).toNat = ((s.reg y).toNat + 256 - f) % 256) ∧
    (x = 15#4 → y = 15#4 → (t.reg 15#4).toNat = 0) ∧
    RegsKeptExcept [x, 15#4] s t ∧ t.pc.toNat = (s.pc.toNat + 2) % 4096 ∧ OnlyChanges [.v, .pc] s t

/-- R100 SHR Vx and R102 SHL Vx, for every value of the ignored y field: VF the bit shifted out, V[x] halved or doubled
modulo 256; with x = 15 VF ends 0 for SHR and twice its old bit 7 for SHL (decision D4). -/
def Obligations.ShiftsMoveByOneAndIgnoreY : Prop :=
  (∀ (x y : Nibble) (s : State), ∃ t, exec (.shr x y) s = .next t ∧
    (x ≠ 15#4 → (t.reg x).toNat = (s.reg x).toNat / 2 ∧ (t.reg 15#4).toNat = (s.reg x).toNat % 2) ∧
    (x = 15#4 → (t.reg 15#4).toNat = 0) ∧
    RegsKeptExcept [x, 15#4] s t ∧ t.pc.toNat = (s.pc.toNat + 2) % 4096 ∧ OnlyChanges [.v, .pc] s t) ∧
  (∀ (x y : Nibble) (s : State), ∃ t, exec (.shl x y) s = .next t ∧
    (x ≠ 15#4 → (t.reg x).toNat = (2 * (s.reg x).toNat) % 256 ∧
      (t.reg 15#4).toNat = (s.reg x).toNat / 128) ∧
    (x = 15#4 → (t.reg 15#4).toNat = 2 * ((s.reg 15#4).toNat / 128)) ∧
    RegsKeptExcept [x, 15#4] s t ∧ t.pc.toNat = (s.pc.toNat + 2) % 4096 ∧ OnlyChanges [.v, .pc] s t)

/-- R103, R104 RND Vx, nn: one byte is drawn, whatever nn is, and V[x] is that byte masked by nn, so no bit outside nn is
set. The byte is a free value (the spec's decision D15, log 4): the statement holds for every one. -/
def Obligations.RandomByteIsMasked : Prop :=
  ∀ (x : Nibble) (nn : Byte) (s : State), ∃ t, exec (.rnd x nn) s = .next t ∧
    (∀ k, k < 8 → (t.reg x).getLsbD k = ((Config.rndByte s.rndIndex).getLsbD k && nn.getLsbD k)) ∧
    t.reg x &&& ~~~nn = 0#8 ∧ t.rndIndex = s.rndIndex + 1 ∧
    RegsKeptExcept [x] s t ∧ t.pc.toNat = (s.pc.toNat + 2) % 4096 ∧ OnlyChanges [.v, .pc, .rndIndex] s t

/-! ### Index register and memory (42_index_and_memory.md) -/

/-- R111 LD I, nnn: zero-extended, so bits 15 to 12 of I become 0. -/
def Obligations.IndexRegisterIsLoaded : Prop :=
  ∀ (nnn : Addr) (s : State), ∃ t, exec (.ldI nnn) s = .next t ∧ t.i.toNat = nnn.toNat ∧ t.i.extractLsb' 12 4 = 0#4 ∧
    t.pc.toNat = (s.pc.toNat + 2) % 4096 ∧ OnlyChanges [.i, .pc] s t

/-- R112 ADD I, Vx, wrapping at 65536 (the spec's decision D20, log 23) and setting no flag (its own inference, decision D23,
log 32); R113 LD F, Vx, five times the whole byte (decision D11, log 24). -/
def Obligations.IndexRegisterIsAddedToAndPointedAtAGlyph : Prop :=
  (∀ (x : Nibble) (s : State), ∃ t, exec (.addI x) s = .next t ∧
    t.i.toNat = (s.i.toNat + (s.reg x).toNat) % 65536 ∧
    t.pc.toNat = (s.pc.toNat + 2) % 4096 ∧ OnlyChanges [.i, .pc] s t) ∧
  (∀ (x : Nibble) (s : State), ∃ t, exec (.ldF x) s = .next t ∧ t.i.toNat = 5 * (s.reg x).toNat ∧
    t.pc.toNat = (s.pc.toNat + 2) % 4096 ∧ OnlyChanges [.i, .pc] s t)

/-- R114 LD B, Vx under FONT_WRITE_MODE `ram` or `ignore`, or `fault` with no address in the font region: the three
decimal digits at I, I + 1, I + 2 modulo 4096, every other byte as before, I unchanged (R116, decisions D8, D22; the wrap is
decision D2, log 31). -/
def Obligations.DecimalDigitsAreStored : Prop :=
  ∀ (x : Nibble) (s : State), ¬ (s.cfg.fontWrite = .fault ∧ HitsFont s 3) →
    ∃ t, exec (.ldB x) s = .next t ∧
      StoresFromI s t 3 (fun k => BitVec.ofNat 8
        (if k = 0 then (s.reg x).toNat / 100 else if k = 1 then (s.reg x).toNat / 10 % 10
          else (s.reg x).toNat % 10)) ∧
      t.pc.toNat = (s.pc.toNat + 2) % 4096 ∧ OnlyChanges [.mem, .pc] s t

/-- R115 LD [I], Vx, under the same premise: V[0] to V[x] at I to I + x modulo 4096, every other byte and every register as
before, I unchanged (R116, decisions D8, D22; the wrap is
decision D2, log 31). -/
def Obligations.RegistersAreStored : Prop :=
  ∀ (x : Nibble) (s : State), ¬ (s.cfg.fontWrite = .fault ∧ HitsFont s (x.toNat + 1)) →
    ∃ t, exec (.ldMemVx x) s = .next t ∧
      StoresFromI s t (x.toNat + 1) (fun k => s.reg (BitVec.ofNat 4 k)) ∧
      t.pc.toNat = (s.pc.toNat + 2) % 4096 ∧ OnlyChanges [.mem, .pc] s t

/-- 20_memory.md R35, 60_exceptions.md R154: in mode `fault`, a store with an address in the font region raises FontWrite before
any byte is written, FINFO the address at the lowest such offset (decisions D8, D14). -/
def Obligations.FontStoreFaultsBeforeWriting : Prop :=
  ∀ (x : Nibble) (s : State) (i : Instr) (n k : Nat), s.cfg.fontWrite = .fault →
    (i = .ldB x ∧ n = 3) ∨ (i = .ldMemVx x ∧ n = x.toNat + 1) →
    k < n → (s.i.toNat + k) % 4096 < 80 → (∀ j, j < k → 80 ≤ (s.i.toNat + j) % 4096) →
    ∃ t, exec i s = .next t ∧ t.rs = .fatal ∧ t.fcause.toNat = 3 ∧ t.finfo.toNat = (s.i.toNat + k) % 4096 ∧
      OnlyChanges [.rs, .fcause, .finfo] s t

/-- R117 LD Vx, [I]: V[0] to V[x] take the bytes at I to I + x modulo 4096; the registers above x, memory and I are
unchanged (R116, decision D22, log 32; the wrap is D2, log 31). -/
def Obligations.RegistersAreLoaded : Prop :=
  ∀ (x : Nibble) (s : State), ∃ t, exec (.ldVxMem x) s = .next t ∧
    (∀ (k : Nibble) (a : Addr), k.toNat ≤ x.toNat → IsEa s k.toNat a → t.reg k = s.byteAt a) ∧
    (∀ k : Nibble, x.toNat < k.toNat → t.reg k = s.reg k) ∧
    t.pc.toNat = (s.pc.toNat + 2) % 4096 ∧ OnlyChanges [.v, .pc] s t

/-- R117: an Fx55 followed by an Fx65 with the same x, the same I and the same memory restores V[0] to V[x], unless the
store fell in the font region in mode `ignore` (or raised FontWrite). (The spec's own inference; the modes are its decision D8,
log 30, the wrapping addresses D2, log 31.) -/
def Obligations.StoreThenLoadRestoresTheRegisters : Prop :=
  ∀ (x : Nibble) (s t u : State), (s.cfg.fontWrite = .ram ∨ ¬ HitsFont s (x.toNat + 1)) →
    exec (.ldMemVx x) s = .next t → u.i = s.i → (∀ a, u.byteAt a = t.byteAt a) →
    ∃ w, exec (.ldVxMem x) u = .next w ∧ ∀ k : Nibble, k.toNat ≤ x.toNat → w.reg k = s.reg k

/-! ### Display (43_display.md) -/

/-- R120 CLS: all 2048 pixels 0, nothing else but `pc`. -/
def Obligations.ClearDarkensEveryPixel : Prop :=
  ∀ s : State, ∃ t, exec .cls s = .next t ∧ (∀ row col, getPixel t.fb row col = false) ∧
    t.pc.toNat = (s.pc.toNat + 2) % 4096 ∧ OnlyChanges [.fb, .pc] s t

/-- R121, R122, R123 DRW Vx, Vy, n: the loop over rows and columns is the one closed form of every pixel: each pixel is
XORed with the one sprite bit that lands on it, both coordinates wrapping, and VF is 1 exactly when some pixel that was on met
a 1, whatever registers x and y are. (Bit 7 leftmost: GK2, log 11; coordinates before VF: decision D4, log 12.) -/
def Obligations.DrawXorsTheSpriteOntoTheScreen : Prop :=
  ∀ (x y n : Nibble) (s : State), ∃ t, exec (.drw x y n) s = .next t ∧
    (∀ row col, getPixel t.fb row col =
      (getPixel s.fb row col !=
        spriteCovers s (s.reg x).toNat (s.reg y).toNat n.toNat row col)) ∧
    ((t.reg 15#4).toNat = 0 ∨ (t.reg 15#4).toNat = 1) ∧
    ((t.reg 15#4).toNat = 1 ↔ ∃ row col, getPixel s.fb row col = true ∧
      spriteCovers s (s.reg x).toNat (s.reg y).toNat n.toNat row col = true) ∧
    RegsKeptExcept [15#4] s t ∧ t.pc.toNat = (s.pc.toNat + 2) % 4096 ∧ OnlyChanges [.v, .fb, .pc] s t

/-- R124: with x and y not 15, the same DRW twice leaves every pixel as before the first, and the second VF is 1 exactly
when the first draw turned a pixel on. (The spec's own inference from R121 and R123.) -/
def Obligations.DrawTwiceRestoresTheScreen : Prop :=
  ∀ (x y n : Nibble) (s : State), x ≠ 15#4 → y ≠ 15#4 →
    ∃ t u, exec (.drw x y n) s = .next t ∧ exec (.drw x y n) t = .next u ∧
      (∀ row col, getPixel u.fb row col = getPixel s.fb row col) ∧
      ((u.reg 15#4).toNat = 1 ↔ ∃ row col, getPixel s.fb row col = false ∧ getPixel t.fb row col = true)

/-! ### Keypad and timers (44_keypad_and_timers.md) -/

/-- R131 to R134 SKP and SKNP, for V[x] up to 15 and, in the modes `mask` and `released`, above: every queued event is drained
first, so each latch entry shows its key's last event; then SKP skips when the key is pressed and SKNP when it is not. (Above
15: the spec's decision D10.) -/
def Obligations.KeySkipsDrainThenTest : Prop :=
  ∀ (x : Nibble) (s : State), ¬ (15 < (s.reg x).toNat ∧ s.cfg.keyOor = .fault) →
    ∃ t u down, exec (.skp x) s = .next t ∧ exec (.sknp x) s = .next u ∧
      down = (if 15 < (s.reg x).toNat ∧ s.cfg.keyOor = .released then false
        else LatchAfter s s.kq (BitVec.ofNat 4 ((s.reg x).toNat % 16))) ∧
      t.kq = [] ∧ u.kq = [] ∧
      (∀ k, keyDown t.kp k = LatchAfter s s.kq k ∧ keyDown u.kp k = LatchAfter s s.kq k) ∧
      t.pc.toNat = (s.pc.toNat + if down = true then 4 else 2) % 4096 ∧
      u.pc.toNat = (s.pc.toNat + if down = true then 2 else 4) % 4096 ∧
      OnlyChanges [.kp, .kq, .pc] s t ∧ OnlyChanges [.kp, .kq, .pc] s u

/-- R134, 60_exceptions.md R156: with KEY_INDEX_OOR `fault` and V[x] above 15, both raise BadKeyIndex(V[x]) before the
drain (decisions D10, D14). -/
def Obligations.KeyIndexAboveFifteenFaults : Prop :=
  ∀ (x : Nibble) (s : State) (i : Instr), i = .skp x ∨ i = .sknp x → 15 < (s.reg x).toNat →
    s.cfg.keyOor = .fault →
    ∃ t, exec i s = .next t ∧ t.rs = .fatal ∧ t.fcause.toNat = 4 ∧ t.finfo.toNat = (s.reg x).toNat ∧
      OnlyChanges [.rs, .fcause, .finfo] s t

/-- R135, R136 LD Vx, K with a press queued: the releases before the first press and the press itself are popped and
applied, V[x] is the press's key, the events behind it stay, and the instruction completes. (That a press queued earlier counts is the spec's decision D27, log
33; that nothing else has drained it, D18, log 28.) -/
def Obligations.FirstQueuedPressIsTaken : Prop :=
  ∀ (x k : Nibble) (s : State) (before after : List KeyEvent),
    s.kq = before ++ { key := k, pressed := true } :: after → (∀ e ∈ before, e.pressed = false) →
    ∃ t, exec (.ldVxK x) s = .next t ∧ (t.reg x).toNat = k.toNat ∧ RegsKeptExcept [x] s t ∧ t.kq = after ∧
      (∀ j, keyDown t.kp j = LatchAfter s (before ++ [{ key := k, pressed := true }]) j) ∧
      t.rs = .running ∧ t.pc.toNat = (s.pc.toNat + 2) % 4096 ∧ OnlyChanges [.v, .kp, .kq, .rs, .pc] s t

/-- R135, R136 LD Vx, K with no press queued: the releases are popped and applied and the machine waits, `pc` and every
register unmoved; a key already held does not end the wait (decision D27). -/
def Obligations.NoQueuedPressBlocks : Prop :=
  ∀ (x : Nibble) (s : State), (∀ e ∈ s.kq, e.pressed = false) →
    ∃ t, exec (.ldVxK x) s = .next t ∧ t.rs = .waitKey ∧ t.kq = [] ∧
      (∀ j, keyDown t.kp j = LatchAfter s s.kq j) ∧ OnlyChanges [.kp, .kq, .rs] s t

/-- R139 LD Vx, DT: V[x] takes DT, and in a cycle the value is the one that cycle's phase P1 left. -/
def Obligations.DelayTimerIsReadAfterItsDecrement : Prop :=
  (∀ (x : Nibble) (s : State), ∃ t, exec (.ldVxDt x) s = .next t ∧ t.reg x = s.dt ∧ RegsKeptExcept [x] s t ∧
    t.pc.toNat = (s.pc.toNat + 2) % 4096 ∧ OnlyChanges [.v, .pc] s t) ∧
  (∀ (x : Nibble) (s : State), s.rs = .running → s.ticksNext → decode s.fetch = some (.ldVxDt x) →
    ∃ t, step s = .next t ∧ (t.reg x).toNat = s.dt.toNat - 1 ∧ t.dt = t.reg x)

/-- R140 LD DT, Vx: DT takes V[x], after the decrement of the same cycle; the first decrement of the new value is in P1 of the
next cycle (the spec's own inference from R70 and R160). -/
def Obligations.DelayTimerIsSetAfterItsDecrement : Prop :=
  (∀ (x : Nibble) (s : State), ∃ t, exec (.ldDtVx x) s = .next t ∧ t.dt = s.reg x ∧
    t.pc.toNat = (s.pc.toNat + 2) % 4096 ∧ OnlyChanges [.dt, .pc] s t) ∧
  (∀ (x : Nibble) (s : State), s.rs = .running → s.ticksNext → decode s.fetch = some (.ldDtVx x) →
    ∃ t, step s = .next t ∧ t.dt = s.reg x ∧ t.afterP1.dt.toNat = (s.reg x).toNat - 1)

/-- R141 LD ST, Vx: ST takes V[x], and SST the time, on every execution (decision D28, log 34). The time is a free value no
smaller than the last one (decision D16, log 5). -/
def Obligations.SoundTimerIsSetWithItsTimestamp : Prop :=
  ∀ (x : Nibble) (s : State), ∃ t, exec (.ldStVx x) s = .next t ∧ t.st = s.reg x ∧
    t.sst = s.clock + Config.timeStep s.nowIndex ∧ t.clock = t.sst ∧ t.nowIndex = s.nowIndex + 1 ∧
    t.pc.toNat = (s.pc.toNat + 2) % 4096 ∧ OnlyChanges [.st, .sst, .pc, .nowIndex, .clock] s t
end

