-- ==== Sys2Proof/Laws/Decode.lean ====
section
/-! SUPPORT. The fields of an instruction word as numbers (30_encoding.md R51, R52), the words the encoder builds as numbers,
and each field of an encoded word. -/

namespace Sys2Proof

/-- A concatenation as a number (00_scope.md R7: `{a, b}` has `a` in the high bits). -/
theorem toNat_concat {n m : Nat} (a : BitVec n) (b : BitVec m) :
    (a ++ b).toNat = a.toNat * 2 ^ m + b.toNat := by
  rw [BitVec.toNat_append, ← Nat.shiftLeft_add_eq_or_of_lt b.isLt, Nat.shiftLeft_eq]

theorem toNat_opF (op : Word) : (opF op).toNat = op.toNat / 4096 := by
  have := op.isLt
  simp only [opF, BitVec.extractLsb'_toNat, Nat.shiftRight_eq_div_pow]
  omega

theorem toNat_opX (op : Word) : (opX op).toNat = op.toNat / 256 % 16 := by
  simp only [opX, BitVec.extractLsb'_toNat, Nat.shiftRight_eq_div_pow]

theorem toNat_opY (op : Word) : (opY op).toNat = op.toNat / 16 % 16 := by
  simp only [opY, BitVec.extractLsb'_toNat, Nat.shiftRight_eq_div_pow]

theorem toNat_opN (op : Word) : (opN op).toNat = op.toNat % 16 := by
  simp only [opN, BitVec.extractLsb'_toNat, Nat.shiftRight_eq_div_pow]
  omega

theorem toNat_opNN (op : Word) : (opNN op).toNat = op.toNat % 256 := by
  simp only [opNN, BitVec.extractLsb'_toNat, Nat.shiftRight_eq_div_pow]
  omega

theorem toNat_opNNN (op : Word) : (opNNN op).toNat = op.toNat % 4096 := by
  simp only [opNNN, BitVec.extractLsb'_toNat, Nat.shiftRight_eq_div_pow]
  omega

theorem toNat_word4 (f a b c : Nibble) :
    (word4 f a b c).toNat = 4096 * f.toNat + 256 * a.toNat + 16 * b.toNat + c.toNat := by
  simp only [word4, toNat_concat]
  omega

theorem toNat_wordXNN (f x : Nibble) (nn : Byte) :
    (wordXNN f x nn).toNat = 4096 * f.toNat + 256 * x.toNat + nn.toNat := by
  simp only [wordXNN, toNat_concat]
  omega

theorem toNat_wordNNN (f : Nibble) (nnn : Addr) : (wordNNN f nnn).toNat = 4096 * f.toNat + nnn.toNat := by
  simp only [wordNNN, toNat_concat]
  omega

/-- The word of two bytes as a number: the first is the more significant (20_memory.md R36). -/
theorem toNat_wordOfBytes (b0 b1 : Byte) : (wordOfBytes b0 b1).toNat = 256 * b0.toNat + b1.toNat := by
  simp only [wordOfBytes, toNat_concat]
  omega

/-- The two bytes of a word, put together again, are the word. -/
@[simp] theorem wordOfBytes_bytesOfWord (op : Word) :
    wordOfBytes (bytesOfWord op).1 (bytesOfWord op).2 = op := by
  have := op.isLt
  apply BitVec.eq_of_toNat_eq
  simp only [toNat_wordOfBytes, bytesOfWord, BitVec.extractLsb'_toNat, Nat.shiftRight_eq_div_pow]
  omega

@[simp] theorem opF_word4 (f a b c : Nibble) : opF (word4 f a b c) = f := by
  have := f.isLt; have := a.isLt; have := b.isLt; have := c.isLt
  apply BitVec.eq_of_toNat_eq
  rw [toNat_opF, toNat_word4]
  omega

@[simp] theorem opX_word4 (f a b c : Nibble) : opX (word4 f a b c) = a := by
  have := a.isLt; have := b.isLt; have := c.isLt
  apply BitVec.eq_of_toNat_eq
  rw [toNat_opX, toNat_word4]
  omega

@[simp] theorem opY_word4 (f a b c : Nibble) : opY (word4 f a b c) = b := by
  have := b.isLt; have := c.isLt
  apply BitVec.eq_of_toNat_eq
  rw [toNat_opY, toNat_word4]
  omega

@[simp] theorem opN_word4 (f a b c : Nibble) : opN (word4 f a b c) = c := by
  have := c.isLt
  apply BitVec.eq_of_toNat_eq
  rw [toNat_opN, toNat_word4]
  omega

@[simp] theorem opF_wordXNN (f x : Nibble) (nn : Byte) : opF (wordXNN f x nn) = f := by
  have := f.isLt; have := x.isLt; have := nn.isLt
  apply BitVec.eq_of_toNat_eq
  rw [toNat_opF, toNat_wordXNN]
  omega

@[simp] theorem opX_wordXNN (f x : Nibble) (nn : Byte) : opX (wordXNN f x nn) = x := by
  have := x.isLt; have := nn.isLt
  apply BitVec.eq_of_toNat_eq
  rw [toNat_opX, toNat_wordXNN]
  omega

@[simp] theorem opNN_wordXNN (f x : Nibble) (nn : Byte) : opNN (wordXNN f x nn) = nn := by
  have := nn.isLt
  apply BitVec.eq_of_toNat_eq
  rw [toNat_opNN, toNat_wordXNN]
  omega

@[simp] theorem opF_wordNNN (f : Nibble) (nnn : Addr) : opF (wordNNN f nnn) = f := by
  have := f.isLt; have := nnn.isLt
  apply BitVec.eq_of_toNat_eq
  rw [toNat_opF, toNat_wordNNN]
  omega

@[simp] theorem opNNN_wordNNN (f : Nibble) (nnn : Addr) : opNNN (wordNNN f nnn) = nnn := by
  have := nnn.isLt
  apply BitVec.eq_of_toNat_eq
  rw [toNat_opNNN, toNat_wordNNN]
  omega

/-- One test of the decoding procedure. -/
theorem of_ite_eq {α : Type} {p : Prop} [Decidable p] {a b c : α} (h : (if p then a else b) = c) : a = c ∨ b = c := by
  by_cases hp : p
  · exact .inl (by rwa [if_pos hp] at h)
  · exact .inr (by rwa [if_neg hp] at h)

/-- The only words of Fx0A have their register index in bits 11 to 8: what a blocked machine's resume reads (10_state.md
R22). -/
theorem opX_of_decode_ldVxK {op : Word} {x : Nibble} (h : decode op = some (.ldVxK x)) : opX op = x := by
  have h0 : decode0 op ≠ some (.ldVxK x) := by
    unfold decode0
    intro h
    repeat (rcases of_ite_eq h with h | h; · cases h)
    cases h
  have h8 : decode8 op ≠ some (.ldVxK x) := by
    unfold decode8
    intro h
    repeat (rcases of_ite_eq h with h | h; · cases h)
    cases h
  have hE : decodeE op ≠ some (.ldVxK x) := by
    unfold decodeE
    intro h
    repeat (rcases of_ite_eq h with h | h; · cases h)
    cases h
  have hF : decodeF op = some (.ldVxK x) → opX op = x := by
    unfold decodeF
    intro h
    repeat (rcases of_ite_eq h with h | h; · cases h <;> rfl)
    cases h
  unfold decode at h
  generalize e0 : decode0 op = d0 at *
  generalize e8 : decode8 op = d8 at *
  generalize eE : decodeE op = dE at *
  generalize eF : decodeF op = dF at *
  rcases of_ite_eq h with h | h
  · exact absurd h h0
  rcases of_ite_eq h with h | h; · cases h
  rcases of_ite_eq h with h | h; · cases h
  rcases of_ite_eq h with h | h; · cases h
  rcases of_ite_eq h with h | h; · cases h
  rcases of_ite_eq h with h | h; · rcases of_ite_eq h with h | h <;> cases h
  rcases of_ite_eq h with h | h; · cases h
  rcases of_ite_eq h with h | h; · cases h
  rcases of_ite_eq h with h | h; · exact absurd h h8
  rcases of_ite_eq h with h | h; · rcases of_ite_eq h with h | h <;> cases h
  rcases of_ite_eq h with h | h; · cases h
  rcases of_ite_eq h with h | h; · cases h
  rcases of_ite_eq h with h | h; · cases h
  rcases of_ite_eq h with h | h; · cases h
  rcases of_ite_eq h with h | h; · exact absurd h hE
  exact hF h

end Sys2Proof
end

