-- ==== Sys2Proof/Laws/Memory.lean ====
section
/-! SUPPORT. The laws of memory: a read after a write, and that every write keeps the canonical form. -/

namespace Sys2Proof.Machine

theorem Memory.read_filter_ne (m : List Host.Cell) {a a' : Nat} (h : a' ≠ a) :
    Memory.read (m.filter (fun c => c.1 != a)) a' = Memory.read m a' := by
  induction m with
  | nil => rfl
  | cons c m ih =>
    by_cases hc : c.1 = a
    · have hca : c.1 ≠ a' := fun e => h (e ▸ hc)
      simp [hc, Memory.read, ih, show a ≠ a' from fun e => h e.symm]
    · simp [hc, Memory.read, ih]

theorem Memory.read_filter_self (m : List Host.Cell) (a : Nat) :
    Memory.read (m.filter (fun c => c.1 != a)) a = Memory.unlisted a := by
  induction m with
  | nil => rfl
  | cons c m ih =>
    by_cases hc : c.1 = a <;> simp [hc, Memory.read, ih]

theorem Memory.read_insert_self (m : List Host.Cell) (a : Nat) (b : Byte)
    (h : ∀ c ∈ m, c.1 ≠ a) : Memory.read (Memory.insert (a, b) m) a = b := by
  induction m with
  | nil => simp [Memory.insert, Memory.read]
  | cons c m ih =>
    have hc : c.1 ≠ a := h c (by simp)
    simp only [Memory.insert]
    split
    · simp [Memory.read]
    · simp [Memory.read, hc, ih (fun d hd => h d (by simp [hd]))]

theorem Memory.read_insert_ne (m : List Host.Cell) {a a' : Nat} (b : Byte) (h : a' ≠ a) :
    Memory.read (Memory.insert (a, b) m) a' = Memory.read m a' := by
  induction m with
  | nil => simp [Memory.insert, Memory.read, h.symm]
  | cons c m ih =>
    simp only [Memory.insert]
    split
    · simp [Memory.read, h.symm]
    · simp [Memory.read, ih]

/-- A read after a write: the value written at its address, what was there before at every other. -/
theorem Memory.read_write (m : List Host.Cell) (a a' : Nat) (b : Byte) :
    Memory.read (Memory.write m a b) a' = if a' = a then b else Memory.read m a' := by
  unfold Memory.write
  by_cases h : a' = a
  · subst h
    by_cases hb : b = Memory.unlisted a'
    · simp [hb, Memory.read_filter_self]
    · simp only [hb, if_false, if_true]
      exact Memory.read_insert_self _ _ _ (fun c hc => by simpa using (List.mem_filter.mp hc).2)
  · by_cases hb : b = Memory.unlisted a
    · simp [hb, h, Memory.read_filter_ne m h]
    · simp [hb, h, Memory.read_insert_ne _ b h, Memory.read_filter_ne m h]

/-- The canonical form as one condition on a cell and the cells after it. -/
theorem Memory.wfAbove_cons (lo : Option Nat) (c : Host.Cell) (m : List Host.Cell) :
    Memory.wfAbove lo (c :: m) = true ↔
      (∀ l, lo = some l → l < c.1) ∧ c.1 < Config.memSize ∧ c.2 ≠ Memory.unlisted c.1 ∧
        Memory.wfAbove (some c.1) m = true := by
  cases lo <;> simp [Memory.wfAbove, and_assoc]

theorem Memory.wfAbove_mono {lo lo' : Option Nat} {m : List Host.Cell}
    (h : ∀ l, lo' = some l → ∃ k, lo = some k ∧ l ≤ k) (hm : Memory.wfAbove lo m = true) :
    Memory.wfAbove lo' m = true := by
  cases m with
  | nil => rfl
  | cons c m =>
    rw [Memory.wfAbove_cons] at hm ⊢
    refine ⟨fun l hl => ?_, hm.2⟩
    obtain ⟨k, hk, hlk⟩ := h l hl
    exact lt_of_le_of_lt hlk (hm.1 k hk)

theorem Memory.wfAbove_filter {lo : Option Nat} {m : List Host.Cell} (p : Host.Cell → Bool)
    (hm : Memory.wfAbove lo m = true) : Memory.wfAbove lo (m.filter p) = true := by
  induction m generalizing lo with
  | nil => rfl
  | cons c m ih =>
    rw [Memory.wfAbove_cons] at hm
    obtain ⟨h1, h2, h3, h4⟩ := hm
    rw [List.filter_cons]
    split
    · rw [Memory.wfAbove_cons]
      exact ⟨h1, h2, h3, ih h4⟩
    · exact ih (Memory.wfAbove_mono (fun l hl => ⟨c.1, rfl, (h1 l hl).le⟩) h4)

theorem Memory.wfAbove_insert {lo : Option Nat} {m : List Host.Cell} {a : Nat} {b : Byte}
    (hlo : ∀ l, lo = some l → l < a) (ha : a < Config.memSize) (hb : b ≠ Memory.unlisted a)
    (hne : ∀ c ∈ m, c.1 ≠ a) (hm : Memory.wfAbove lo m = true) :
    Memory.wfAbove lo (Memory.insert (a, b) m) = true := by
  induction m generalizing lo with
  | nil =>
    simp only [Memory.insert]
    rw [Memory.wfAbove_cons]
    exact ⟨hlo, ha, hb, rfl⟩
  | cons c m ih =>
    have hm' := hm
    rw [Memory.wfAbove_cons] at hm
    obtain ⟨h1, h2, h3, h4⟩ := hm
    have hc : c.1 ≠ a := hne c (by simp)
    simp only [Memory.insert]
    split
    · rename_i hlt
      rw [Memory.wfAbove_cons]
      refine ⟨hlo, ha, hb, ?_⟩
      rw [Memory.wfAbove_cons]
      exact ⟨fun l hl => by cases hl; exact hlt, h2, h3, h4⟩
    · rename_i hlt
      rw [Memory.wfAbove_cons]
      exact ⟨h1, h2, h3, ih (fun l hl => by cases hl; omega) (fun d hd => hne d (by simp [hd])) h4⟩

/-- A write inside the address space keeps the canonical form. -/
theorem Memory.wf_write {m : List Host.Cell} {a : Nat} (b : Byte) (ha : a < Config.memSize)
    (hm : Memory.wf m = true) : Memory.wf (Memory.write m a b) = true := by
  unfold Memory.write Memory.wf at *
  split
  · exact Memory.wfAbove_filter _ hm
  · rename_i hb
    exact Memory.wfAbove_insert (by simp) ha hb
      (fun c hc => by simpa using (List.mem_filter.mp hc).2) (Memory.wfAbove_filter _ hm)

/-- Bytes written inside the address space keep the canonical form. -/
theorem Memory.wf_writeFrom {m : List Host.Cell} {a : Nat} (bs : List Byte)
    (ha : a + bs.length ≤ Config.memSize) (hm : Memory.wf m = true) :
    Memory.wf (Memory.writeFrom m a bs) = true := by
  induction bs generalizing m a with
  | nil => exact hm
  | cons b bs ih =>
    simp only [List.length_cons] at ha
    exact ih (by omega) (Memory.wf_write b (by omega) hm)

/-- A read after bytes written from `a` on. -/
theorem Memory.read_writeFrom (m : List Host.Cell) (a : Nat) (bs : List Byte) (a' : Nat) :
    Memory.read (Memory.writeFrom m a bs) a' =
      if a ≤ a' then bs.getD (a' - a) (Memory.read m a') else Memory.read m a' := by
  induction bs generalizing m a with
  | nil => simp [Memory.writeFrom]
  | cons b bs ih =>
    rw [Memory.writeFrom, ih, Memory.read_write]
    rcases Nat.lt_trichotomy a' a with h | h | h
    · simp [show ¬ a + 1 ≤ a' by omega, show ¬ a ≤ a' by omega, show a' ≠ a by omega]
    · subst h
      simp
    · obtain ⟨k, rfl⟩ : ∃ k, a' = a + 1 + k := ⟨a' - (a + 1), by omega⟩
      simp [show a + 1 + k - a = k + 1 by omega, show a ≤ a + 1 + k by omega,
        show a + 1 + k ≠ a by omega]

/-- The canonical form is canonical: two memories in it that read the same at every address are the same list. -/
theorem Memory.eq_of_read_eq {m m' : List Host.Cell} (h : Memory.wf m = true) (h' : Memory.wf m' = true)
    (hr : ∀ a, Memory.read m a = Memory.read m' a) : m = m' := by
  have below : ∀ {l : Nat} {n : List Host.Cell}, Memory.wfAbove (some l) n = true →
      ∀ a, a ≤ l → Memory.read n a = Memory.unlisted a := by
    intro l n
    induction n generalizing l with
    | nil => intros; rfl
    | cons c n ih =>
      intro hn a ha
      rw [Memory.wfAbove_cons] at hn
      have := hn.1 l rfl
      rw [Memory.read, if_neg (by omega)]
      exact ih hn.2.2.2 a (by omega)
  have go : ∀ (lo : Option Nat) (m m' : List Host.Cell), Memory.wfAbove lo m = true →
      Memory.wfAbove lo m' = true → (∀ a, Memory.read m a = Memory.read m' a) → m = m' := by
    intro lo m
    induction m generalizing lo with
    | nil =>
      intro m' _ h' hr
      cases m' with
      | nil => rfl
      | cons c m' =>
        rw [Memory.wfAbove_cons] at h'
        exact absurd (by simpa [Memory.read] using (hr c.1).symm) h'.2.2.1
    | cons c m ih =>
      intro m' h h' hr
      cases m' with
      | nil =>
        rw [Memory.wfAbove_cons] at h
        exact absurd (by simpa [Memory.read] using hr c.1) h.2.2.1
      | cons d m' =>
        rw [Memory.wfAbove_cons] at h h'
        have key : c.1 = d.1 := by
          rcases Nat.lt_trichotomy c.1 d.1 with hlt | heq | hlt
          · have h1 := hr c.1
            rw [Memory.read, if_pos rfl, Memory.read, if_neg (by omega),
              below h'.2.2.2 _ (by omega)] at h1
            exact absurd h1 h.2.2.1
          · exact heq
          · have h1 := hr d.1
            rw [Memory.read, if_neg (by omega), below h.2.2.2 _ (by omega), Memory.read,
              if_pos rfl] at h1
            exact absurd h1.symm h'.2.2.1
        have hv : c.2 = d.2 := by
          have := hr c.1
          simpa [Memory.read, key] using this
        have hcd : c = d := Prod.ext key hv
        subst hcd
        congr 1
        refine ih (some c.1) m' h.2.2.2 h'.2.2.2 (fun a => ?_)
        by_cases ha : a ≤ c.1
        · rw [below h.2.2.2 a ha, below h'.2.2.2 a ha]
        · have := hr a
          simpa [Memory.read, show c.1 ≠ a by omega] using this
  exact go none m m' h h' hr

end Sys2Proof.Machine
end

