-- ==== Sys2Proof/Laws/State.lean ====
section
/-! SUPPORT. One lemma per field per update of State, each true by rfl, so that no proof unfolds an update; then the
reads `reg`, `byteAt`, `sp`, `frame` over the updates that leave their field alone. -/

namespace Sys2Proof.Machine

@[simp] theorem State.setI_v (s : State) (w : Word) : (s.setI w).v = s.v := rfl
@[simp] theorem State.setI_i (s : State) (w : Word) : (s.setI w).i = w := rfl
@[simp] theorem State.setI_pc (s : State) (w : Word) : (s.setI w).pc = s.pc := rfl
@[simp] theorem State.setI_stack (s : State) (w : Word) : (s.setI w).stack = s.stack := rfl
@[simp] theorem State.setI_fb (s : State) (w : Word) : (s.setI w).fb = s.fb := rfl
@[simp] theorem State.setI_dt (s : State) (w : Word) : (s.setI w).dt = s.dt := rfl
@[simp] theorem State.setI_st (s : State) (w : Word) : (s.setI w).st = s.st := rfl
@[simp] theorem State.setI_sst (s : State) (w : Word) : (s.setI w).sst = s.sst := rfl
@[simp] theorem State.setI_kp (s : State) (w : Word) : (s.setI w).kp = s.kp := rfl
@[simp] theorem State.setI_kq (s : State) (w : Word) : (s.setI w).kq = s.kq := rfl
@[simp] theorem State.setI_ap (s : State) (w : Word) : (s.setI w).ap = s.ap := rfl
@[simp] theorem State.setI_rs (s : State) (w : Word) : (s.setI w).rs = s.rs := rfl
@[simp] theorem State.setI_fcause (s : State) (w : Word) : (s.setI w).fcause = s.fcause := rfl
@[simp] theorem State.setI_finfo (s : State) (w : Word) : (s.setI w).finfo = s.finfo := rfl
@[simp] theorem State.setI_mem (s : State) (w : Word) : (s.setI w).mem = s.mem := rfl
@[simp] theorem State.setI_cfg (s : State) (w : Word) : (s.setI w).cfg = s.cfg := rfl
@[simp] theorem State.setI_strobes (s : State) (w : Word) : (s.setI w).strobes = s.strobes := rfl
@[simp] theorem State.setI_script (s : State) (w : Word) : (s.setI w).script = s.script := rfl
@[simp] theorem State.setI_rndIndex (s : State) (w : Word) : (s.setI w).rndIndex = s.rndIndex := rfl
@[simp] theorem State.setI_nowIndex (s : State) (w : Word) : (s.setI w).nowIndex = s.nowIndex := rfl
@[simp] theorem State.setI_clock (s : State) (w : Word) : (s.setI w).clock = s.clock := rfl
@[simp] theorem State.setI_tickIndex (s : State) (w : Word) : (s.setI w).tickIndex = s.tickIndex := rfl
@[simp] theorem State.setI_reg (s : State) (w : Word) (r' : Nibble) : (s.setI w).reg r' = s.reg r' := rfl
@[simp] theorem State.setI_byteAt (s : State) (w : Word) (a' : Addr) : (s.setI w).byteAt a' = s.byteAt a' := rfl
@[simp] theorem State.setI_sp (s : State) (w : Word) : (s.setI w).sp = s.sp := rfl
@[simp] theorem State.setI_frame (s : State) (w : Word) (k' : Nat) : (s.setI w).frame k' = s.frame k' := rfl

@[simp] theorem State.setPc_v (s : State) (a : Addr) : (s.setPc a).v = s.v := rfl
@[simp] theorem State.setPc_i (s : State) (a : Addr) : (s.setPc a).i = s.i := rfl
@[simp] theorem State.setPc_pc (s : State) (a : Addr) : (s.setPc a).pc = a := rfl
@[simp] theorem State.setPc_stack (s : State) (a : Addr) : (s.setPc a).stack = s.stack := rfl
@[simp] theorem State.setPc_fb (s : State) (a : Addr) : (s.setPc a).fb = s.fb := rfl
@[simp] theorem State.setPc_dt (s : State) (a : Addr) : (s.setPc a).dt = s.dt := rfl
@[simp] theorem State.setPc_st (s : State) (a : Addr) : (s.setPc a).st = s.st := rfl
@[simp] theorem State.setPc_sst (s : State) (a : Addr) : (s.setPc a).sst = s.sst := rfl
@[simp] theorem State.setPc_kp (s : State) (a : Addr) : (s.setPc a).kp = s.kp := rfl
@[simp] theorem State.setPc_kq (s : State) (a : Addr) : (s.setPc a).kq = s.kq := rfl
@[simp] theorem State.setPc_ap (s : State) (a : Addr) : (s.setPc a).ap = s.ap := rfl
@[simp] theorem State.setPc_rs (s : State) (a : Addr) : (s.setPc a).rs = s.rs := rfl
@[simp] theorem State.setPc_fcause (s : State) (a : Addr) : (s.setPc a).fcause = s.fcause := rfl
@[simp] theorem State.setPc_finfo (s : State) (a : Addr) : (s.setPc a).finfo = s.finfo := rfl
@[simp] theorem State.setPc_mem (s : State) (a : Addr) : (s.setPc a).mem = s.mem := rfl
@[simp] theorem State.setPc_cfg (s : State) (a : Addr) : (s.setPc a).cfg = s.cfg := rfl
@[simp] theorem State.setPc_strobes (s : State) (a : Addr) : (s.setPc a).strobes = s.strobes := rfl
@[simp] theorem State.setPc_script (s : State) (a : Addr) : (s.setPc a).script = s.script := rfl
@[simp] theorem State.setPc_rndIndex (s : State) (a : Addr) : (s.setPc a).rndIndex = s.rndIndex := rfl
@[simp] theorem State.setPc_nowIndex (s : State) (a : Addr) : (s.setPc a).nowIndex = s.nowIndex := rfl
@[simp] theorem State.setPc_clock (s : State) (a : Addr) : (s.setPc a).clock = s.clock := rfl
@[simp] theorem State.setPc_tickIndex (s : State) (a : Addr) : (s.setPc a).tickIndex = s.tickIndex := rfl
@[simp] theorem State.setPc_reg (s : State) (a : Addr) (r' : Nibble) : (s.setPc a).reg r' = s.reg r' := rfl
@[simp] theorem State.setPc_byteAt (s : State) (a : Addr) (a' : Addr) : (s.setPc a).byteAt a' = s.byteAt a' := rfl
@[simp] theorem State.setPc_sp (s : State) (a : Addr) : (s.setPc a).sp = s.sp := rfl
@[simp] theorem State.setPc_frame (s : State) (a : Addr) (k' : Nat) : (s.setPc a).frame k' = s.frame k' := rfl

@[simp] theorem State.setStack_v (s : State) (l : List Addr) : (s.setStack l).v = s.v := rfl
@[simp] theorem State.setStack_i (s : State) (l : List Addr) : (s.setStack l).i = s.i := rfl
@[simp] theorem State.setStack_pc (s : State) (l : List Addr) : (s.setStack l).pc = s.pc := rfl
@[simp] theorem State.setStack_stack (s : State) (l : List Addr) : (s.setStack l).stack = l := rfl
@[simp] theorem State.setStack_fb (s : State) (l : List Addr) : (s.setStack l).fb = s.fb := rfl
@[simp] theorem State.setStack_dt (s : State) (l : List Addr) : (s.setStack l).dt = s.dt := rfl
@[simp] theorem State.setStack_st (s : State) (l : List Addr) : (s.setStack l).st = s.st := rfl
@[simp] theorem State.setStack_sst (s : State) (l : List Addr) : (s.setStack l).sst = s.sst := rfl
@[simp] theorem State.setStack_kp (s : State) (l : List Addr) : (s.setStack l).kp = s.kp := rfl
@[simp] theorem State.setStack_kq (s : State) (l : List Addr) : (s.setStack l).kq = s.kq := rfl
@[simp] theorem State.setStack_ap (s : State) (l : List Addr) : (s.setStack l).ap = s.ap := rfl
@[simp] theorem State.setStack_rs (s : State) (l : List Addr) : (s.setStack l).rs = s.rs := rfl
@[simp] theorem State.setStack_fcause (s : State) (l : List Addr) : (s.setStack l).fcause = s.fcause := rfl
@[simp] theorem State.setStack_finfo (s : State) (l : List Addr) : (s.setStack l).finfo = s.finfo := rfl
@[simp] theorem State.setStack_mem (s : State) (l : List Addr) : (s.setStack l).mem = s.mem := rfl
@[simp] theorem State.setStack_cfg (s : State) (l : List Addr) : (s.setStack l).cfg = s.cfg := rfl
@[simp] theorem State.setStack_strobes (s : State) (l : List Addr) : (s.setStack l).strobes = s.strobes := rfl
@[simp] theorem State.setStack_script (s : State) (l : List Addr) : (s.setStack l).script = s.script := rfl
@[simp] theorem State.setStack_rndIndex (s : State) (l : List Addr) : (s.setStack l).rndIndex = s.rndIndex := rfl
@[simp] theorem State.setStack_nowIndex (s : State) (l : List Addr) : (s.setStack l).nowIndex = s.nowIndex := rfl
@[simp] theorem State.setStack_clock (s : State) (l : List Addr) : (s.setStack l).clock = s.clock := rfl
@[simp] theorem State.setStack_tickIndex (s : State) (l : List Addr) : (s.setStack l).tickIndex = s.tickIndex := rfl
@[simp] theorem State.setStack_reg (s : State) (l : List Addr) (r' : Nibble) : (s.setStack l).reg r' = s.reg r' := rfl
@[simp] theorem State.setStack_byteAt (s : State) (l : List Addr) (a' : Addr) : (s.setStack l).byteAt a' = s.byteAt a' := rfl

@[simp] theorem State.setFb_v (s : State) (f : Screen) : (s.setFb f).v = s.v := rfl
@[simp] theorem State.setFb_i (s : State) (f : Screen) : (s.setFb f).i = s.i := rfl
@[simp] theorem State.setFb_pc (s : State) (f : Screen) : (s.setFb f).pc = s.pc := rfl
@[simp] theorem State.setFb_stack (s : State) (f : Screen) : (s.setFb f).stack = s.stack := rfl
@[simp] theorem State.setFb_fb (s : State) (f : Screen) : (s.setFb f).fb = f := rfl
@[simp] theorem State.setFb_dt (s : State) (f : Screen) : (s.setFb f).dt = s.dt := rfl
@[simp] theorem State.setFb_st (s : State) (f : Screen) : (s.setFb f).st = s.st := rfl
@[simp] theorem State.setFb_sst (s : State) (f : Screen) : (s.setFb f).sst = s.sst := rfl
@[simp] theorem State.setFb_kp (s : State) (f : Screen) : (s.setFb f).kp = s.kp := rfl
@[simp] theorem State.setFb_kq (s : State) (f : Screen) : (s.setFb f).kq = s.kq := rfl
@[simp] theorem State.setFb_ap (s : State) (f : Screen) : (s.setFb f).ap = s.ap := rfl
@[simp] theorem State.setFb_rs (s : State) (f : Screen) : (s.setFb f).rs = s.rs := rfl
@[simp] theorem State.setFb_fcause (s : State) (f : Screen) : (s.setFb f).fcause = s.fcause := rfl
@[simp] theorem State.setFb_finfo (s : State) (f : Screen) : (s.setFb f).finfo = s.finfo := rfl
@[simp] theorem State.setFb_mem (s : State) (f : Screen) : (s.setFb f).mem = s.mem := rfl
@[simp] theorem State.setFb_cfg (s : State) (f : Screen) : (s.setFb f).cfg = s.cfg := rfl
@[simp] theorem State.setFb_strobes (s : State) (f : Screen) : (s.setFb f).strobes = s.strobes := rfl
@[simp] theorem State.setFb_script (s : State) (f : Screen) : (s.setFb f).script = s.script := rfl
@[simp] theorem State.setFb_rndIndex (s : State) (f : Screen) : (s.setFb f).rndIndex = s.rndIndex := rfl
@[simp] theorem State.setFb_nowIndex (s : State) (f : Screen) : (s.setFb f).nowIndex = s.nowIndex := rfl
@[simp] theorem State.setFb_clock (s : State) (f : Screen) : (s.setFb f).clock = s.clock := rfl
@[simp] theorem State.setFb_tickIndex (s : State) (f : Screen) : (s.setFb f).tickIndex = s.tickIndex := rfl
@[simp] theorem State.setFb_reg (s : State) (f : Screen) (r' : Nibble) : (s.setFb f).reg r' = s.reg r' := rfl
@[simp] theorem State.setFb_byteAt (s : State) (f : Screen) (a' : Addr) : (s.setFb f).byteAt a' = s.byteAt a' := rfl
@[simp] theorem State.setFb_sp (s : State) (f : Screen) : (s.setFb f).sp = s.sp := rfl
@[simp] theorem State.setFb_frame (s : State) (f : Screen) (k' : Nat) : (s.setFb f).frame k' = s.frame k' := rfl

@[simp] theorem State.setDt_v (s : State) (b : Byte) : (s.setDt b).v = s.v := rfl
@[simp] theorem State.setDt_i (s : State) (b : Byte) : (s.setDt b).i = s.i := rfl
@[simp] theorem State.setDt_pc (s : State) (b : Byte) : (s.setDt b).pc = s.pc := rfl
@[simp] theorem State.setDt_stack (s : State) (b : Byte) : (s.setDt b).stack = s.stack := rfl
@[simp] theorem State.setDt_fb (s : State) (b : Byte) : (s.setDt b).fb = s.fb := rfl
@[simp] theorem State.setDt_dt (s : State) (b : Byte) : (s.setDt b).dt = b := rfl
@[simp] theorem State.setDt_st (s : State) (b : Byte) : (s.setDt b).st = s.st := rfl
@[simp] theorem State.setDt_sst (s : State) (b : Byte) : (s.setDt b).sst = s.sst := rfl
@[simp] theorem State.setDt_kp (s : State) (b : Byte) : (s.setDt b).kp = s.kp := rfl
@[simp] theorem State.setDt_kq (s : State) (b : Byte) : (s.setDt b).kq = s.kq := rfl
@[simp] theorem State.setDt_ap (s : State) (b : Byte) : (s.setDt b).ap = s.ap := rfl
@[simp] theorem State.setDt_rs (s : State) (b : Byte) : (s.setDt b).rs = s.rs := rfl
@[simp] theorem State.setDt_fcause (s : State) (b : Byte) : (s.setDt b).fcause = s.fcause := rfl
@[simp] theorem State.setDt_finfo (s : State) (b : Byte) : (s.setDt b).finfo = s.finfo := rfl
@[simp] theorem State.setDt_mem (s : State) (b : Byte) : (s.setDt b).mem = s.mem := rfl
@[simp] theorem State.setDt_cfg (s : State) (b : Byte) : (s.setDt b).cfg = s.cfg := rfl
@[simp] theorem State.setDt_strobes (s : State) (b : Byte) : (s.setDt b).strobes = s.strobes := rfl
@[simp] theorem State.setDt_script (s : State) (b : Byte) : (s.setDt b).script = s.script := rfl
@[simp] theorem State.setDt_rndIndex (s : State) (b : Byte) : (s.setDt b).rndIndex = s.rndIndex := rfl
@[simp] theorem State.setDt_nowIndex (s : State) (b : Byte) : (s.setDt b).nowIndex = s.nowIndex := rfl
@[simp] theorem State.setDt_clock (s : State) (b : Byte) : (s.setDt b).clock = s.clock := rfl
@[simp] theorem State.setDt_tickIndex (s : State) (b : Byte) : (s.setDt b).tickIndex = s.tickIndex := rfl
@[simp] theorem State.setDt_reg (s : State) (b : Byte) (r' : Nibble) : (s.setDt b).reg r' = s.reg r' := rfl
@[simp] theorem State.setDt_byteAt (s : State) (b : Byte) (a' : Addr) : (s.setDt b).byteAt a' = s.byteAt a' := rfl
@[simp] theorem State.setDt_sp (s : State) (b : Byte) : (s.setDt b).sp = s.sp := rfl
@[simp] theorem State.setDt_frame (s : State) (b : Byte) (k' : Nat) : (s.setDt b).frame k' = s.frame k' := rfl

@[simp] theorem State.setSt_v (s : State) (b : Byte) : (s.setSt b).v = s.v := rfl
@[simp] theorem State.setSt_i (s : State) (b : Byte) : (s.setSt b).i = s.i := rfl
@[simp] theorem State.setSt_pc (s : State) (b : Byte) : (s.setSt b).pc = s.pc := rfl
@[simp] theorem State.setSt_stack (s : State) (b : Byte) : (s.setSt b).stack = s.stack := rfl
@[simp] theorem State.setSt_fb (s : State) (b : Byte) : (s.setSt b).fb = s.fb := rfl
@[simp] theorem State.setSt_dt (s : State) (b : Byte) : (s.setSt b).dt = s.dt := rfl
@[simp] theorem State.setSt_st (s : State) (b : Byte) : (s.setSt b).st = b := rfl
@[simp] theorem State.setSt_sst (s : State) (b : Byte) : (s.setSt b).sst = s.sst := rfl
@[simp] theorem State.setSt_kp (s : State) (b : Byte) : (s.setSt b).kp = s.kp := rfl
@[simp] theorem State.setSt_kq (s : State) (b : Byte) : (s.setSt b).kq = s.kq := rfl
@[simp] theorem State.setSt_ap (s : State) (b : Byte) : (s.setSt b).ap = s.ap := rfl
@[simp] theorem State.setSt_rs (s : State) (b : Byte) : (s.setSt b).rs = s.rs := rfl
@[simp] theorem State.setSt_fcause (s : State) (b : Byte) : (s.setSt b).fcause = s.fcause := rfl
@[simp] theorem State.setSt_finfo (s : State) (b : Byte) : (s.setSt b).finfo = s.finfo := rfl
@[simp] theorem State.setSt_mem (s : State) (b : Byte) : (s.setSt b).mem = s.mem := rfl
@[simp] theorem State.setSt_cfg (s : State) (b : Byte) : (s.setSt b).cfg = s.cfg := rfl
@[simp] theorem State.setSt_strobes (s : State) (b : Byte) : (s.setSt b).strobes = s.strobes := rfl
@[simp] theorem State.setSt_script (s : State) (b : Byte) : (s.setSt b).script = s.script := rfl
@[simp] theorem State.setSt_rndIndex (s : State) (b : Byte) : (s.setSt b).rndIndex = s.rndIndex := rfl
@[simp] theorem State.setSt_nowIndex (s : State) (b : Byte) : (s.setSt b).nowIndex = s.nowIndex := rfl
@[simp] theorem State.setSt_clock (s : State) (b : Byte) : (s.setSt b).clock = s.clock := rfl
@[simp] theorem State.setSt_tickIndex (s : State) (b : Byte) : (s.setSt b).tickIndex = s.tickIndex := rfl
@[simp] theorem State.setSt_reg (s : State) (b : Byte) (r' : Nibble) : (s.setSt b).reg r' = s.reg r' := rfl
@[simp] theorem State.setSt_byteAt (s : State) (b : Byte) (a' : Addr) : (s.setSt b).byteAt a' = s.byteAt a' := rfl
@[simp] theorem State.setSt_sp (s : State) (b : Byte) : (s.setSt b).sp = s.sp := rfl
@[simp] theorem State.setSt_frame (s : State) (b : Byte) (k' : Nat) : (s.setSt b).frame k' = s.frame k' := rfl

@[simp] theorem State.setSst_v (s : State) (n : Nat) : (s.setSst n).v = s.v := rfl
@[simp] theorem State.setSst_i (s : State) (n : Nat) : (s.setSst n).i = s.i := rfl
@[simp] theorem State.setSst_pc (s : State) (n : Nat) : (s.setSst n).pc = s.pc := rfl
@[simp] theorem State.setSst_stack (s : State) (n : Nat) : (s.setSst n).stack = s.stack := rfl
@[simp] theorem State.setSst_fb (s : State) (n : Nat) : (s.setSst n).fb = s.fb := rfl
@[simp] theorem State.setSst_dt (s : State) (n : Nat) : (s.setSst n).dt = s.dt := rfl
@[simp] theorem State.setSst_st (s : State) (n : Nat) : (s.setSst n).st = s.st := rfl
@[simp] theorem State.setSst_sst (s : State) (n : Nat) : (s.setSst n).sst = n := rfl
@[simp] theorem State.setSst_kp (s : State) (n : Nat) : (s.setSst n).kp = s.kp := rfl
@[simp] theorem State.setSst_kq (s : State) (n : Nat) : (s.setSst n).kq = s.kq := rfl
@[simp] theorem State.setSst_ap (s : State) (n : Nat) : (s.setSst n).ap = s.ap := rfl
@[simp] theorem State.setSst_rs (s : State) (n : Nat) : (s.setSst n).rs = s.rs := rfl
@[simp] theorem State.setSst_fcause (s : State) (n : Nat) : (s.setSst n).fcause = s.fcause := rfl
@[simp] theorem State.setSst_finfo (s : State) (n : Nat) : (s.setSst n).finfo = s.finfo := rfl
@[simp] theorem State.setSst_mem (s : State) (n : Nat) : (s.setSst n).mem = s.mem := rfl
@[simp] theorem State.setSst_cfg (s : State) (n : Nat) : (s.setSst n).cfg = s.cfg := rfl
@[simp] theorem State.setSst_strobes (s : State) (n : Nat) : (s.setSst n).strobes = s.strobes := rfl
@[simp] theorem State.setSst_script (s : State) (n : Nat) : (s.setSst n).script = s.script := rfl
@[simp] theorem State.setSst_rndIndex (s : State) (n : Nat) : (s.setSst n).rndIndex = s.rndIndex := rfl
@[simp] theorem State.setSst_nowIndex (s : State) (n : Nat) : (s.setSst n).nowIndex = s.nowIndex := rfl
@[simp] theorem State.setSst_clock (s : State) (n : Nat) : (s.setSst n).clock = s.clock := rfl
@[simp] theorem State.setSst_tickIndex (s : State) (n : Nat) : (s.setSst n).tickIndex = s.tickIndex := rfl
@[simp] theorem State.setSst_reg (s : State) (n : Nat) (r' : Nibble) : (s.setSst n).reg r' = s.reg r' := rfl
@[simp] theorem State.setSst_byteAt (s : State) (n : Nat) (a' : Addr) : (s.setSst n).byteAt a' = s.byteAt a' := rfl
@[simp] theorem State.setSst_sp (s : State) (n : Nat) : (s.setSst n).sp = s.sp := rfl
@[simp] theorem State.setSst_frame (s : State) (n : Nat) (k' : Nat) : (s.setSst n).frame k' = s.frame k' := rfl

@[simp] theorem State.setKp_v (s : State) (k : Vector Bool 16) : (s.setKp k).v = s.v := rfl
@[simp] theorem State.setKp_i (s : State) (k : Vector Bool 16) : (s.setKp k).i = s.i := rfl
@[simp] theorem State.setKp_pc (s : State) (k : Vector Bool 16) : (s.setKp k).pc = s.pc := rfl
@[simp] theorem State.setKp_stack (s : State) (k : Vector Bool 16) : (s.setKp k).stack = s.stack := rfl
@[simp] theorem State.setKp_fb (s : State) (k : Vector Bool 16) : (s.setKp k).fb = s.fb := rfl
@[simp] theorem State.setKp_dt (s : State) (k : Vector Bool 16) : (s.setKp k).dt = s.dt := rfl
@[simp] theorem State.setKp_st (s : State) (k : Vector Bool 16) : (s.setKp k).st = s.st := rfl
@[simp] theorem State.setKp_sst (s : State) (k : Vector Bool 16) : (s.setKp k).sst = s.sst := rfl
@[simp] theorem State.setKp_kp (s : State) (k : Vector Bool 16) : (s.setKp k).kp = k := rfl
@[simp] theorem State.setKp_kq (s : State) (k : Vector Bool 16) : (s.setKp k).kq = s.kq := rfl
@[simp] theorem State.setKp_ap (s : State) (k : Vector Bool 16) : (s.setKp k).ap = s.ap := rfl
@[simp] theorem State.setKp_rs (s : State) (k : Vector Bool 16) : (s.setKp k).rs = s.rs := rfl
@[simp] theorem State.setKp_fcause (s : State) (k : Vector Bool 16) : (s.setKp k).fcause = s.fcause := rfl
@[simp] theorem State.setKp_finfo (s : State) (k : Vector Bool 16) : (s.setKp k).finfo = s.finfo := rfl
@[simp] theorem State.setKp_mem (s : State) (k : Vector Bool 16) : (s.setKp k).mem = s.mem := rfl
@[simp] theorem State.setKp_cfg (s : State) (k : Vector Bool 16) : (s.setKp k).cfg = s.cfg := rfl
@[simp] theorem State.setKp_strobes (s : State) (k : Vector Bool 16) : (s.setKp k).strobes = s.strobes := rfl
@[simp] theorem State.setKp_script (s : State) (k : Vector Bool 16) : (s.setKp k).script = s.script := rfl
@[simp] theorem State.setKp_rndIndex (s : State) (k : Vector Bool 16) : (s.setKp k).rndIndex = s.rndIndex := rfl
@[simp] theorem State.setKp_nowIndex (s : State) (k : Vector Bool 16) : (s.setKp k).nowIndex = s.nowIndex := rfl
@[simp] theorem State.setKp_clock (s : State) (k : Vector Bool 16) : (s.setKp k).clock = s.clock := rfl
@[simp] theorem State.setKp_tickIndex (s : State) (k : Vector Bool 16) : (s.setKp k).tickIndex = s.tickIndex := rfl
@[simp] theorem State.setKp_reg (s : State) (k : Vector Bool 16) (r' : Nibble) : (s.setKp k).reg r' = s.reg r' := rfl
@[simp] theorem State.setKp_byteAt (s : State) (k : Vector Bool 16) (a' : Addr) : (s.setKp k).byteAt a' = s.byteAt a' := rfl
@[simp] theorem State.setKp_sp (s : State) (k : Vector Bool 16) : (s.setKp k).sp = s.sp := rfl
@[simp] theorem State.setKp_frame (s : State) (k : Vector Bool 16) (k' : Nat) : (s.setKp k).frame k' = s.frame k' := rfl

@[simp] theorem State.setKq_v (s : State) (q : List KeyEvent) : (s.setKq q).v = s.v := rfl
@[simp] theorem State.setKq_i (s : State) (q : List KeyEvent) : (s.setKq q).i = s.i := rfl
@[simp] theorem State.setKq_pc (s : State) (q : List KeyEvent) : (s.setKq q).pc = s.pc := rfl
@[simp] theorem State.setKq_stack (s : State) (q : List KeyEvent) : (s.setKq q).stack = s.stack := rfl
@[simp] theorem State.setKq_fb (s : State) (q : List KeyEvent) : (s.setKq q).fb = s.fb := rfl
@[simp] theorem State.setKq_dt (s : State) (q : List KeyEvent) : (s.setKq q).dt = s.dt := rfl
@[simp] theorem State.setKq_st (s : State) (q : List KeyEvent) : (s.setKq q).st = s.st := rfl
@[simp] theorem State.setKq_sst (s : State) (q : List KeyEvent) : (s.setKq q).sst = s.sst := rfl
@[simp] theorem State.setKq_kp (s : State) (q : List KeyEvent) : (s.setKq q).kp = s.kp := rfl
@[simp] theorem State.setKq_kq (s : State) (q : List KeyEvent) : (s.setKq q).kq = q := rfl
@[simp] theorem State.setKq_ap (s : State) (q : List KeyEvent) : (s.setKq q).ap = s.ap := rfl
@[simp] theorem State.setKq_rs (s : State) (q : List KeyEvent) : (s.setKq q).rs = s.rs := rfl
@[simp] theorem State.setKq_fcause (s : State) (q : List KeyEvent) : (s.setKq q).fcause = s.fcause := rfl
@[simp] theorem State.setKq_finfo (s : State) (q : List KeyEvent) : (s.setKq q).finfo = s.finfo := rfl
@[simp] theorem State.setKq_mem (s : State) (q : List KeyEvent) : (s.setKq q).mem = s.mem := rfl
@[simp] theorem State.setKq_cfg (s : State) (q : List KeyEvent) : (s.setKq q).cfg = s.cfg := rfl
@[simp] theorem State.setKq_strobes (s : State) (q : List KeyEvent) : (s.setKq q).strobes = s.strobes := rfl
@[simp] theorem State.setKq_script (s : State) (q : List KeyEvent) : (s.setKq q).script = s.script := rfl
@[simp] theorem State.setKq_rndIndex (s : State) (q : List KeyEvent) : (s.setKq q).rndIndex = s.rndIndex := rfl
@[simp] theorem State.setKq_nowIndex (s : State) (q : List KeyEvent) : (s.setKq q).nowIndex = s.nowIndex := rfl
@[simp] theorem State.setKq_clock (s : State) (q : List KeyEvent) : (s.setKq q).clock = s.clock := rfl
@[simp] theorem State.setKq_tickIndex (s : State) (q : List KeyEvent) : (s.setKq q).tickIndex = s.tickIndex := rfl
@[simp] theorem State.setKq_reg (s : State) (q : List KeyEvent) (r' : Nibble) : (s.setKq q).reg r' = s.reg r' := rfl
@[simp] theorem State.setKq_byteAt (s : State) (q : List KeyEvent) (a' : Addr) : (s.setKq q).byteAt a' = s.byteAt a' := rfl
@[simp] theorem State.setKq_sp (s : State) (q : List KeyEvent) : (s.setKq q).sp = s.sp := rfl
@[simp] theorem State.setKq_frame (s : State) (q : List KeyEvent) (k' : Nat) : (s.setKq q).frame k' = s.frame k' := rfl

@[simp] theorem State.setAp_v (s : State) (b : Bool) : (s.setAp b).v = s.v := rfl
@[simp] theorem State.setAp_i (s : State) (b : Bool) : (s.setAp b).i = s.i := rfl
@[simp] theorem State.setAp_pc (s : State) (b : Bool) : (s.setAp b).pc = s.pc := rfl
@[simp] theorem State.setAp_stack (s : State) (b : Bool) : (s.setAp b).stack = s.stack := rfl
@[simp] theorem State.setAp_fb (s : State) (b : Bool) : (s.setAp b).fb = s.fb := rfl
@[simp] theorem State.setAp_dt (s : State) (b : Bool) : (s.setAp b).dt = s.dt := rfl
@[simp] theorem State.setAp_st (s : State) (b : Bool) : (s.setAp b).st = s.st := rfl
@[simp] theorem State.setAp_sst (s : State) (b : Bool) : (s.setAp b).sst = s.sst := rfl
@[simp] theorem State.setAp_kp (s : State) (b : Bool) : (s.setAp b).kp = s.kp := rfl
@[simp] theorem State.setAp_kq (s : State) (b : Bool) : (s.setAp b).kq = s.kq := rfl
@[simp] theorem State.setAp_ap (s : State) (b : Bool) : (s.setAp b).ap = b := rfl
@[simp] theorem State.setAp_rs (s : State) (b : Bool) : (s.setAp b).rs = s.rs := rfl
@[simp] theorem State.setAp_fcause (s : State) (b : Bool) : (s.setAp b).fcause = s.fcause := rfl
@[simp] theorem State.setAp_finfo (s : State) (b : Bool) : (s.setAp b).finfo = s.finfo := rfl
@[simp] theorem State.setAp_mem (s : State) (b : Bool) : (s.setAp b).mem = s.mem := rfl
@[simp] theorem State.setAp_cfg (s : State) (b : Bool) : (s.setAp b).cfg = s.cfg := rfl
@[simp] theorem State.setAp_strobes (s : State) (b : Bool) : (s.setAp b).strobes = s.strobes := rfl
@[simp] theorem State.setAp_script (s : State) (b : Bool) : (s.setAp b).script = s.script := rfl
@[simp] theorem State.setAp_rndIndex (s : State) (b : Bool) : (s.setAp b).rndIndex = s.rndIndex := rfl
@[simp] theorem State.setAp_nowIndex (s : State) (b : Bool) : (s.setAp b).nowIndex = s.nowIndex := rfl
@[simp] theorem State.setAp_clock (s : State) (b : Bool) : (s.setAp b).clock = s.clock := rfl
@[simp] theorem State.setAp_tickIndex (s : State) (b : Bool) : (s.setAp b).tickIndex = s.tickIndex := rfl
@[simp] theorem State.setAp_reg (s : State) (b : Bool) (r' : Nibble) : (s.setAp b).reg r' = s.reg r' := rfl
@[simp] theorem State.setAp_byteAt (s : State) (b : Bool) (a' : Addr) : (s.setAp b).byteAt a' = s.byteAt a' := rfl
@[simp] theorem State.setAp_sp (s : State) (b : Bool) : (s.setAp b).sp = s.sp := rfl
@[simp] theorem State.setAp_frame (s : State) (b : Bool) (k' : Nat) : (s.setAp b).frame k' = s.frame k' := rfl

@[simp] theorem State.setRs_v (s : State) (r : RunState) : (s.setRs r).v = s.v := rfl
@[simp] theorem State.setRs_i (s : State) (r : RunState) : (s.setRs r).i = s.i := rfl
@[simp] theorem State.setRs_pc (s : State) (r : RunState) : (s.setRs r).pc = s.pc := rfl
@[simp] theorem State.setRs_stack (s : State) (r : RunState) : (s.setRs r).stack = s.stack := rfl
@[simp] theorem State.setRs_fb (s : State) (r : RunState) : (s.setRs r).fb = s.fb := rfl
@[simp] theorem State.setRs_dt (s : State) (r : RunState) : (s.setRs r).dt = s.dt := rfl
@[simp] theorem State.setRs_st (s : State) (r : RunState) : (s.setRs r).st = s.st := rfl
@[simp] theorem State.setRs_sst (s : State) (r : RunState) : (s.setRs r).sst = s.sst := rfl
@[simp] theorem State.setRs_kp (s : State) (r : RunState) : (s.setRs r).kp = s.kp := rfl
@[simp] theorem State.setRs_kq (s : State) (r : RunState) : (s.setRs r).kq = s.kq := rfl
@[simp] theorem State.setRs_ap (s : State) (r : RunState) : (s.setRs r).ap = s.ap := rfl
@[simp] theorem State.setRs_rs (s : State) (r : RunState) : (s.setRs r).rs = r := rfl
@[simp] theorem State.setRs_fcause (s : State) (r : RunState) : (s.setRs r).fcause = s.fcause := rfl
@[simp] theorem State.setRs_finfo (s : State) (r : RunState) : (s.setRs r).finfo = s.finfo := rfl
@[simp] theorem State.setRs_mem (s : State) (r : RunState) : (s.setRs r).mem = s.mem := rfl
@[simp] theorem State.setRs_cfg (s : State) (r : RunState) : (s.setRs r).cfg = s.cfg := rfl
@[simp] theorem State.setRs_strobes (s : State) (r : RunState) : (s.setRs r).strobes = s.strobes := rfl
@[simp] theorem State.setRs_script (s : State) (r : RunState) : (s.setRs r).script = s.script := rfl
@[simp] theorem State.setRs_rndIndex (s : State) (r : RunState) : (s.setRs r).rndIndex = s.rndIndex := rfl
@[simp] theorem State.setRs_nowIndex (s : State) (r : RunState) : (s.setRs r).nowIndex = s.nowIndex := rfl
@[simp] theorem State.setRs_clock (s : State) (r : RunState) : (s.setRs r).clock = s.clock := rfl
@[simp] theorem State.setRs_tickIndex (s : State) (r : RunState) : (s.setRs r).tickIndex = s.tickIndex := rfl
@[simp] theorem State.setRs_reg (s : State) (r : RunState) (r' : Nibble) : (s.setRs r).reg r' = s.reg r' := rfl
@[simp] theorem State.setRs_byteAt (s : State) (r : RunState) (a' : Addr) : (s.setRs r).byteAt a' = s.byteAt a' := rfl
@[simp] theorem State.setRs_sp (s : State) (r : RunState) : (s.setRs r).sp = s.sp := rfl
@[simp] theorem State.setRs_frame (s : State) (r : RunState) (k' : Nat) : (s.setRs r).frame k' = s.frame k' := rfl

@[simp] theorem State.setMem_v (s : State) (m : List Host.Cell) : (s.setMem m).v = s.v := rfl
@[simp] theorem State.setMem_i (s : State) (m : List Host.Cell) : (s.setMem m).i = s.i := rfl
@[simp] theorem State.setMem_pc (s : State) (m : List Host.Cell) : (s.setMem m).pc = s.pc := rfl
@[simp] theorem State.setMem_stack (s : State) (m : List Host.Cell) : (s.setMem m).stack = s.stack := rfl
@[simp] theorem State.setMem_fb (s : State) (m : List Host.Cell) : (s.setMem m).fb = s.fb := rfl
@[simp] theorem State.setMem_dt (s : State) (m : List Host.Cell) : (s.setMem m).dt = s.dt := rfl
@[simp] theorem State.setMem_st (s : State) (m : List Host.Cell) : (s.setMem m).st = s.st := rfl
@[simp] theorem State.setMem_sst (s : State) (m : List Host.Cell) : (s.setMem m).sst = s.sst := rfl
@[simp] theorem State.setMem_kp (s : State) (m : List Host.Cell) : (s.setMem m).kp = s.kp := rfl
@[simp] theorem State.setMem_kq (s : State) (m : List Host.Cell) : (s.setMem m).kq = s.kq := rfl
@[simp] theorem State.setMem_ap (s : State) (m : List Host.Cell) : (s.setMem m).ap = s.ap := rfl
@[simp] theorem State.setMem_rs (s : State) (m : List Host.Cell) : (s.setMem m).rs = s.rs := rfl
@[simp] theorem State.setMem_fcause (s : State) (m : List Host.Cell) : (s.setMem m).fcause = s.fcause := rfl
@[simp] theorem State.setMem_finfo (s : State) (m : List Host.Cell) : (s.setMem m).finfo = s.finfo := rfl
@[simp] theorem State.setMem_mem (s : State) (m : List Host.Cell) : (s.setMem m).mem = m := rfl
@[simp] theorem State.setMem_cfg (s : State) (m : List Host.Cell) : (s.setMem m).cfg = s.cfg := rfl
@[simp] theorem State.setMem_strobes (s : State) (m : List Host.Cell) : (s.setMem m).strobes = s.strobes := rfl
@[simp] theorem State.setMem_script (s : State) (m : List Host.Cell) : (s.setMem m).script = s.script := rfl
@[simp] theorem State.setMem_rndIndex (s : State) (m : List Host.Cell) : (s.setMem m).rndIndex = s.rndIndex := rfl
@[simp] theorem State.setMem_nowIndex (s : State) (m : List Host.Cell) : (s.setMem m).nowIndex = s.nowIndex := rfl
@[simp] theorem State.setMem_clock (s : State) (m : List Host.Cell) : (s.setMem m).clock = s.clock := rfl
@[simp] theorem State.setMem_tickIndex (s : State) (m : List Host.Cell) : (s.setMem m).tickIndex = s.tickIndex := rfl
@[simp] theorem State.setMem_reg (s : State) (m : List Host.Cell) (r' : Nibble) : (s.setMem m).reg r' = s.reg r' := rfl
@[simp] theorem State.setMem_sp (s : State) (m : List Host.Cell) : (s.setMem m).sp = s.sp := rfl
@[simp] theorem State.setMem_frame (s : State) (m : List Host.Cell) (k' : Nat) : (s.setMem m).frame k' = s.frame k' := rfl

@[simp] theorem State.setStrobes_v (s : State) (o : Strobes) : (s.setStrobes o).v = s.v := rfl
@[simp] theorem State.setStrobes_i (s : State) (o : Strobes) : (s.setStrobes o).i = s.i := rfl
@[simp] theorem State.setStrobes_pc (s : State) (o : Strobes) : (s.setStrobes o).pc = s.pc := rfl
@[simp] theorem State.setStrobes_stack (s : State) (o : Strobes) : (s.setStrobes o).stack = s.stack := rfl
@[simp] theorem State.setStrobes_fb (s : State) (o : Strobes) : (s.setStrobes o).fb = s.fb := rfl
@[simp] theorem State.setStrobes_dt (s : State) (o : Strobes) : (s.setStrobes o).dt = s.dt := rfl
@[simp] theorem State.setStrobes_st (s : State) (o : Strobes) : (s.setStrobes o).st = s.st := rfl
@[simp] theorem State.setStrobes_sst (s : State) (o : Strobes) : (s.setStrobes o).sst = s.sst := rfl
@[simp] theorem State.setStrobes_kp (s : State) (o : Strobes) : (s.setStrobes o).kp = s.kp := rfl
@[simp] theorem State.setStrobes_kq (s : State) (o : Strobes) : (s.setStrobes o).kq = s.kq := rfl
@[simp] theorem State.setStrobes_ap (s : State) (o : Strobes) : (s.setStrobes o).ap = s.ap := rfl
@[simp] theorem State.setStrobes_rs (s : State) (o : Strobes) : (s.setStrobes o).rs = s.rs := rfl
@[simp] theorem State.setStrobes_fcause (s : State) (o : Strobes) : (s.setStrobes o).fcause = s.fcause := rfl
@[simp] theorem State.setStrobes_finfo (s : State) (o : Strobes) : (s.setStrobes o).finfo = s.finfo := rfl
@[simp] theorem State.setStrobes_mem (s : State) (o : Strobes) : (s.setStrobes o).mem = s.mem := rfl
@[simp] theorem State.setStrobes_cfg (s : State) (o : Strobes) : (s.setStrobes o).cfg = s.cfg := rfl
@[simp] theorem State.setStrobes_strobes (s : State) (o : Strobes) : (s.setStrobes o).strobes = o := rfl
@[simp] theorem State.setStrobes_script (s : State) (o : Strobes) : (s.setStrobes o).script = s.script := rfl
@[simp] theorem State.setStrobes_rndIndex (s : State) (o : Strobes) : (s.setStrobes o).rndIndex = s.rndIndex := rfl
@[simp] theorem State.setStrobes_nowIndex (s : State) (o : Strobes) : (s.setStrobes o).nowIndex = s.nowIndex := rfl
@[simp] theorem State.setStrobes_clock (s : State) (o : Strobes) : (s.setStrobes o).clock = s.clock := rfl
@[simp] theorem State.setStrobes_tickIndex (s : State) (o : Strobes) : (s.setStrobes o).tickIndex = s.tickIndex := rfl
@[simp] theorem State.setStrobes_reg (s : State) (o : Strobes) (r' : Nibble) : (s.setStrobes o).reg r' = s.reg r' := rfl
@[simp] theorem State.setStrobes_byteAt (s : State) (o : Strobes) (a' : Addr) : (s.setStrobes o).byteAt a' = s.byteAt a' := rfl
@[simp] theorem State.setStrobes_sp (s : State) (o : Strobes) : (s.setStrobes o).sp = s.sp := rfl
@[simp] theorem State.setStrobes_frame (s : State) (o : Strobes) (k' : Nat) : (s.setStrobes o).frame k' = s.frame k' := rfl

@[simp] theorem State.setScript_v (s : State) (l : List EnvMove) : (s.setScript l).v = s.v := rfl
@[simp] theorem State.setScript_i (s : State) (l : List EnvMove) : (s.setScript l).i = s.i := rfl
@[simp] theorem State.setScript_pc (s : State) (l : List EnvMove) : (s.setScript l).pc = s.pc := rfl
@[simp] theorem State.setScript_stack (s : State) (l : List EnvMove) : (s.setScript l).stack = s.stack := rfl
@[simp] theorem State.setScript_fb (s : State) (l : List EnvMove) : (s.setScript l).fb = s.fb := rfl
@[simp] theorem State.setScript_dt (s : State) (l : List EnvMove) : (s.setScript l).dt = s.dt := rfl
@[simp] theorem State.setScript_st (s : State) (l : List EnvMove) : (s.setScript l).st = s.st := rfl
@[simp] theorem State.setScript_sst (s : State) (l : List EnvMove) : (s.setScript l).sst = s.sst := rfl
@[simp] theorem State.setScript_kp (s : State) (l : List EnvMove) : (s.setScript l).kp = s.kp := rfl
@[simp] theorem State.setScript_kq (s : State) (l : List EnvMove) : (s.setScript l).kq = s.kq := rfl
@[simp] theorem State.setScript_ap (s : State) (l : List EnvMove) : (s.setScript l).ap = s.ap := rfl
@[simp] theorem State.setScript_rs (s : State) (l : List EnvMove) : (s.setScript l).rs = s.rs := rfl
@[simp] theorem State.setScript_fcause (s : State) (l : List EnvMove) : (s.setScript l).fcause = s.fcause := rfl
@[simp] theorem State.setScript_finfo (s : State) (l : List EnvMove) : (s.setScript l).finfo = s.finfo := rfl
@[simp] theorem State.setScript_mem (s : State) (l : List EnvMove) : (s.setScript l).mem = s.mem := rfl
@[simp] theorem State.setScript_cfg (s : State) (l : List EnvMove) : (s.setScript l).cfg = s.cfg := rfl
@[simp] theorem State.setScript_strobes (s : State) (l : List EnvMove) : (s.setScript l).strobes = s.strobes := rfl
@[simp] theorem State.setScript_script (s : State) (l : List EnvMove) : (s.setScript l).script = l := rfl
@[simp] theorem State.setScript_rndIndex (s : State) (l : List EnvMove) : (s.setScript l).rndIndex = s.rndIndex := rfl
@[simp] theorem State.setScript_nowIndex (s : State) (l : List EnvMove) : (s.setScript l).nowIndex = s.nowIndex := rfl
@[simp] theorem State.setScript_clock (s : State) (l : List EnvMove) : (s.setScript l).clock = s.clock := rfl
@[simp] theorem State.setScript_tickIndex (s : State) (l : List EnvMove) : (s.setScript l).tickIndex = s.tickIndex := rfl
@[simp] theorem State.setScript_reg (s : State) (l : List EnvMove) (r' : Nibble) : (s.setScript l).reg r' = s.reg r' := rfl
@[simp] theorem State.setScript_byteAt (s : State) (l : List EnvMove) (a' : Addr) : (s.setScript l).byteAt a' = s.byteAt a' := rfl
@[simp] theorem State.setScript_sp (s : State) (l : List EnvMove) : (s.setScript l).sp = s.sp := rfl
@[simp] theorem State.setScript_frame (s : State) (l : List EnvMove) (k' : Nat) : (s.setScript l).frame k' = s.frame k' := rfl

@[simp] theorem State.setReg_v (s : State) (r : Nibble) (b : Byte) : (s.setReg r b).v = s.v.set r.toNat b r.isLt := rfl
@[simp] theorem State.setReg_i (s : State) (r : Nibble) (b : Byte) : (s.setReg r b).i = s.i := rfl
@[simp] theorem State.setReg_pc (s : State) (r : Nibble) (b : Byte) : (s.setReg r b).pc = s.pc := rfl
@[simp] theorem State.setReg_stack (s : State) (r : Nibble) (b : Byte) : (s.setReg r b).stack = s.stack := rfl
@[simp] theorem State.setReg_fb (s : State) (r : Nibble) (b : Byte) : (s.setReg r b).fb = s.fb := rfl
@[simp] theorem State.setReg_dt (s : State) (r : Nibble) (b : Byte) : (s.setReg r b).dt = s.dt := rfl
@[simp] theorem State.setReg_st (s : State) (r : Nibble) (b : Byte) : (s.setReg r b).st = s.st := rfl
@[simp] theorem State.setReg_sst (s : State) (r : Nibble) (b : Byte) : (s.setReg r b).sst = s.sst := rfl
@[simp] theorem State.setReg_kp (s : State) (r : Nibble) (b : Byte) : (s.setReg r b).kp = s.kp := rfl
@[simp] theorem State.setReg_kq (s : State) (r : Nibble) (b : Byte) : (s.setReg r b).kq = s.kq := rfl
@[simp] theorem State.setReg_ap (s : State) (r : Nibble) (b : Byte) : (s.setReg r b).ap = s.ap := rfl
@[simp] theorem State.setReg_rs (s : State) (r : Nibble) (b : Byte) : (s.setReg r b).rs = s.rs := rfl
@[simp] theorem State.setReg_fcause (s : State) (r : Nibble) (b : Byte) : (s.setReg r b).fcause = s.fcause := rfl
@[simp] theorem State.setReg_finfo (s : State) (r : Nibble) (b : Byte) : (s.setReg r b).finfo = s.finfo := rfl
@[simp] theorem State.setReg_mem (s : State) (r : Nibble) (b : Byte) : (s.setReg r b).mem = s.mem := rfl
@[simp] theorem State.setReg_cfg (s : State) (r : Nibble) (b : Byte) : (s.setReg r b).cfg = s.cfg := rfl
@[simp] theorem State.setReg_strobes (s : State) (r : Nibble) (b : Byte) : (s.setReg r b).strobes = s.strobes := rfl
@[simp] theorem State.setReg_script (s : State) (r : Nibble) (b : Byte) : (s.setReg r b).script = s.script := rfl
@[simp] theorem State.setReg_rndIndex (s : State) (r : Nibble) (b : Byte) : (s.setReg r b).rndIndex = s.rndIndex := rfl
@[simp] theorem State.setReg_nowIndex (s : State) (r : Nibble) (b : Byte) : (s.setReg r b).nowIndex = s.nowIndex := rfl
@[simp] theorem State.setReg_clock (s : State) (r : Nibble) (b : Byte) : (s.setReg r b).clock = s.clock := rfl
@[simp] theorem State.setReg_tickIndex (s : State) (r : Nibble) (b : Byte) : (s.setReg r b).tickIndex = s.tickIndex := rfl
@[simp] theorem State.setReg_byteAt (s : State) (r : Nibble) (b : Byte) (a' : Addr) : (s.setReg r b).byteAt a' = s.byteAt a' := rfl
@[simp] theorem State.setReg_sp (s : State) (r : Nibble) (b : Byte) : (s.setReg r b).sp = s.sp := rfl
@[simp] theorem State.setReg_frame (s : State) (r : Nibble) (b : Byte) (k' : Nat) : (s.setReg r b).frame k' = s.frame k' := rfl

@[simp] theorem State.readClock_v (s : State) : s.readClock.v = s.v := rfl
@[simp] theorem State.readClock_i (s : State) : s.readClock.i = s.i := rfl
@[simp] theorem State.readClock_pc (s : State) : s.readClock.pc = s.pc := rfl
@[simp] theorem State.readClock_stack (s : State) : s.readClock.stack = s.stack := rfl
@[simp] theorem State.readClock_fb (s : State) : s.readClock.fb = s.fb := rfl
@[simp] theorem State.readClock_dt (s : State) : s.readClock.dt = s.dt := rfl
@[simp] theorem State.readClock_st (s : State) : s.readClock.st = s.st := rfl
@[simp] theorem State.readClock_sst (s : State) : s.readClock.sst = s.sst := rfl
@[simp] theorem State.readClock_kp (s : State) : s.readClock.kp = s.kp := rfl
@[simp] theorem State.readClock_kq (s : State) : s.readClock.kq = s.kq := rfl
@[simp] theorem State.readClock_ap (s : State) : s.readClock.ap = s.ap := rfl
@[simp] theorem State.readClock_rs (s : State) : s.readClock.rs = s.rs := rfl
@[simp] theorem State.readClock_fcause (s : State) : s.readClock.fcause = s.fcause := rfl
@[simp] theorem State.readClock_finfo (s : State) : s.readClock.finfo = s.finfo := rfl
@[simp] theorem State.readClock_mem (s : State) : s.readClock.mem = s.mem := rfl
@[simp] theorem State.readClock_cfg (s : State) : s.readClock.cfg = s.cfg := rfl
@[simp] theorem State.readClock_strobes (s : State) : s.readClock.strobes = s.strobes := rfl
@[simp] theorem State.readClock_script (s : State) : s.readClock.script = s.script := rfl
@[simp] theorem State.readClock_rndIndex (s : State) : s.readClock.rndIndex = s.rndIndex := rfl
@[simp] theorem State.readClock_nowIndex (s : State) : s.readClock.nowIndex = s.nowIndex + 1 := rfl
@[simp] theorem State.readClock_clock (s : State) : s.readClock.clock = s.now := rfl
@[simp] theorem State.readClock_tickIndex (s : State) : s.readClock.tickIndex = s.tickIndex := rfl
@[simp] theorem State.readClock_reg (s : State) (r' : Nibble) : s.readClock.reg r' = s.reg r' := rfl
@[simp] theorem State.readClock_byteAt (s : State) (a' : Addr) : s.readClock.byteAt a' = s.byteAt a' := rfl
@[simp] theorem State.readClock_sp (s : State) : s.readClock.sp = s.sp := rfl
@[simp] theorem State.readClock_frame (s : State) (k' : Nat) : s.readClock.frame k' = s.frame k' := rfl

@[simp] theorem State.drawRnd_v (s : State) : s.drawRnd.v = s.v := rfl
@[simp] theorem State.drawRnd_i (s : State) : s.drawRnd.i = s.i := rfl
@[simp] theorem State.drawRnd_pc (s : State) : s.drawRnd.pc = s.pc := rfl
@[simp] theorem State.drawRnd_stack (s : State) : s.drawRnd.stack = s.stack := rfl
@[simp] theorem State.drawRnd_fb (s : State) : s.drawRnd.fb = s.fb := rfl
@[simp] theorem State.drawRnd_dt (s : State) : s.drawRnd.dt = s.dt := rfl
@[simp] theorem State.drawRnd_st (s : State) : s.drawRnd.st = s.st := rfl
@[simp] theorem State.drawRnd_sst (s : State) : s.drawRnd.sst = s.sst := rfl
@[simp] theorem State.drawRnd_kp (s : State) : s.drawRnd.kp = s.kp := rfl
@[simp] theorem State.drawRnd_kq (s : State) : s.drawRnd.kq = s.kq := rfl
@[simp] theorem State.drawRnd_ap (s : State) : s.drawRnd.ap = s.ap := rfl
@[simp] theorem State.drawRnd_rs (s : State) : s.drawRnd.rs = s.rs := rfl
@[simp] theorem State.drawRnd_fcause (s : State) : s.drawRnd.fcause = s.fcause := rfl
@[simp] theorem State.drawRnd_finfo (s : State) : s.drawRnd.finfo = s.finfo := rfl
@[simp] theorem State.drawRnd_mem (s : State) : s.drawRnd.mem = s.mem := rfl
@[simp] theorem State.drawRnd_cfg (s : State) : s.drawRnd.cfg = s.cfg := rfl
@[simp] theorem State.drawRnd_strobes (s : State) : s.drawRnd.strobes = s.strobes := rfl
@[simp] theorem State.drawRnd_script (s : State) : s.drawRnd.script = s.script := rfl
@[simp] theorem State.drawRnd_rndIndex (s : State) : s.drawRnd.rndIndex = s.rndIndex + 1 := rfl
@[simp] theorem State.drawRnd_nowIndex (s : State) : s.drawRnd.nowIndex = s.nowIndex := rfl
@[simp] theorem State.drawRnd_clock (s : State) : s.drawRnd.clock = s.clock := rfl
@[simp] theorem State.drawRnd_tickIndex (s : State) : s.drawRnd.tickIndex = s.tickIndex := rfl
@[simp] theorem State.drawRnd_reg (s : State) (r' : Nibble) : s.drawRnd.reg r' = s.reg r' := rfl
@[simp] theorem State.drawRnd_byteAt (s : State) (a' : Addr) : s.drawRnd.byteAt a' = s.byteAt a' := rfl
@[simp] theorem State.drawRnd_sp (s : State) : s.drawRnd.sp = s.sp := rfl
@[simp] theorem State.drawRnd_frame (s : State) (k' : Nat) : s.drawRnd.frame k' = s.frame k' := rfl

@[simp] theorem State.raise_v (s : State) (e : Exc) (w : Word) : (s.raise e w).v = s.v := rfl
@[simp] theorem State.raise_i (s : State) (e : Exc) (w : Word) : (s.raise e w).i = s.i := rfl
@[simp] theorem State.raise_pc (s : State) (e : Exc) (w : Word) : (s.raise e w).pc = s.pc := rfl
@[simp] theorem State.raise_stack (s : State) (e : Exc) (w : Word) : (s.raise e w).stack = s.stack := rfl
@[simp] theorem State.raise_fb (s : State) (e : Exc) (w : Word) : (s.raise e w).fb = s.fb := rfl
@[simp] theorem State.raise_dt (s : State) (e : Exc) (w : Word) : (s.raise e w).dt = s.dt := rfl
@[simp] theorem State.raise_st (s : State) (e : Exc) (w : Word) : (s.raise e w).st = s.st := rfl
@[simp] theorem State.raise_sst (s : State) (e : Exc) (w : Word) : (s.raise e w).sst = s.sst := rfl
@[simp] theorem State.raise_kp (s : State) (e : Exc) (w : Word) : (s.raise e w).kp = s.kp := rfl
@[simp] theorem State.raise_kq (s : State) (e : Exc) (w : Word) : (s.raise e w).kq = s.kq := rfl
@[simp] theorem State.raise_ap (s : State) (e : Exc) (w : Word) : (s.raise e w).ap = s.ap := rfl
@[simp] theorem State.raise_rs (s : State) (e : Exc) (w : Word) : (s.raise e w).rs = .fatal := rfl
@[simp] theorem State.raise_fcause (s : State) (e : Exc) (w : Word) : (s.raise e w).fcause = e.code := rfl
@[simp] theorem State.raise_finfo (s : State) (e : Exc) (w : Word) : (s.raise e w).finfo = w := rfl
@[simp] theorem State.raise_mem (s : State) (e : Exc) (w : Word) : (s.raise e w).mem = s.mem := rfl
@[simp] theorem State.raise_cfg (s : State) (e : Exc) (w : Word) : (s.raise e w).cfg = s.cfg := rfl
@[simp] theorem State.raise_strobes (s : State) (e : Exc) (w : Word) : (s.raise e w).strobes = s.strobes := rfl
@[simp] theorem State.raise_script (s : State) (e : Exc) (w : Word) : (s.raise e w).script = s.script := rfl
@[simp] theorem State.raise_rndIndex (s : State) (e : Exc) (w : Word) : (s.raise e w).rndIndex = s.rndIndex := rfl
@[simp] theorem State.raise_nowIndex (s : State) (e : Exc) (w : Word) : (s.raise e w).nowIndex = s.nowIndex := rfl
@[simp] theorem State.raise_clock (s : State) (e : Exc) (w : Word) : (s.raise e w).clock = s.clock := rfl
@[simp] theorem State.raise_tickIndex (s : State) (e : Exc) (w : Word) : (s.raise e w).tickIndex = s.tickIndex := rfl
@[simp] theorem State.raise_reg (s : State) (e : Exc) (w : Word) (r' : Nibble) : (s.raise e w).reg r' = s.reg r' := rfl
@[simp] theorem State.raise_byteAt (s : State) (e : Exc) (w : Word) (a' : Addr) : (s.raise e w).byteAt a' = s.byteAt a' := rfl
@[simp] theorem State.raise_sp (s : State) (e : Exc) (w : Word) : (s.raise e w).sp = s.sp := rfl
@[simp] theorem State.raise_frame (s : State) (e : Exc) (w : Word) (k' : Nat) : (s.raise e w).frame k' = s.frame k' := rfl

end Sys2Proof.Machine
end

