-- ==== Sys2Proof/Laws/Ops.lean ====
section
/-! SUPPORT. One lemma for each shared operation of Machine/Ops.lean: reads after writes of registers, memory, pixels
and keys, and what the drain and the composite operations leave. -/

namespace Sys2Proof.Machine

@[simp] theorem State.advance_eq (s : State) : s.advance = s.setPc (s.pc + 2#12) := rfl

@[simp] theorem State.skip_eq (s : State) : s.skip = s.setPc (s.pc + 4#12) := rfl

@[simp] theorem State.halt_eq (s : State) : s.halt = s.setRs .halted := rfl

theorem State.skipIf_eq (s : State) (b : Bool) :
    s.skipIf b = s.setPc (s.pc + if b then 4#12 else 2#12) := by
  cases b <;> rfl

/-- A register read after a register write. -/
theorem State.reg_setReg (s : State) (r q : Nibble) (b : Byte) :
    (s.setReg r b).reg q = if q = r then b else s.reg q := by
  unfold State.reg State.setReg
  simp only [Vector.getElem_set]
  by_cases h : q = r
  · simp [h]
  · have : r.toNat ≠ q.toNat := fun e => h (BitVec.eq_of_toNat_eq e.symm)
    simp [h, this]

@[simp] theorem State.reg_setReg_self (s : State) (r : Nibble) (b : Byte) : (s.setReg r b).reg r = b := by
  simp [State.reg_setReg]

/-- A byte read after a byte stored. -/
theorem State.byteAt_poke (s : State) (a a' : Addr) (b : Byte) :
    (s.poke a b).byteAt a' = if a' = a then b else s.byteAt a' := by
  unfold State.byteAt State.poke
  simp only [State.setMem_mem, Memory.read_write]
  by_cases h : a' = a
  · simp [h]
  · have : a'.toNat ≠ a.toNat := fun e => h (BitVec.eq_of_toNat_eq e)
    simp [h, this]

/-- A store changes memory only. -/
theorem State.poke_eq (s : State) (a : Addr) (b : Byte) :
    s.poke a b = s.setMem (Memory.write s.mem a.toNat b) := rfl

/-- A store keeps memory's canonical form. -/
theorem State.wf_poke {s : State} (a : Addr) (b : Byte) (h : Memory.wf s.mem = true) :
    Memory.wf (s.poke a b).mem = true :=
  Memory.wf_write b a.isLt h

/-- A pixel read after a pixel write. -/
theorem getPixel_setPixel (f : Screen) (row row' : Row) (col col' : Col) (b : Bool) :
    getPixel (setPixel f row col b) row' col' =
      if row' = row ∧ col' = col then b else getPixel f row' col' := by
  unfold getPixel setPixel
  by_cases hr : row' = row
  · subst hr
    by_cases hc : col' = col
    · simp [hc]
    · have : col.toNat ≠ col'.toNat := fun e => hc (BitVec.eq_of_toNat_eq e.symm)
      simp [hc, this]
  · have : row.toNat ≠ row'.toNat := fun e => hr (BitVec.eq_of_toNat_eq e.symm)
    simp [hr, this]

@[simp] theorem getPixel_blankScreen (row : Row) (col : Col) : getPixel blankScreen row col = false := by
  simp [getPixel, blankScreen]

/-- Two framebuffers with the same pixels are the same. -/
theorem screen_ext {f g : Screen} (h : ∀ row col, getPixel f row col = getPixel g row col) : f = g := by
  apply Vector.ext
  intro r hr
  apply Vector.ext
  intro c hc
  have hr' : r < 2 ^ 5 := hr
  have hc' : c < 2 ^ 6 := hc
  have := h (BitVec.ofNatLT r hr') (BitVec.ofNatLT c hc')
  simpa [getPixel] using this

/-- A key read after one key event. -/
theorem keyDown_applyKey (kp : Vector Bool 16) (e : KeyEvent) (k : Nibble) :
    keyDown (applyKey kp e) k = if k = e.key then e.pressed else keyDown kp k := by
  unfold keyDown applyKey
  by_cases h : k = e.key
  · simp [h]
  · have : e.key.toNat ≠ k.toNat := fun x => h (BitVec.eq_of_toNat_eq x.symm)
    simp [h, this]

/-- The drain empties the queue and changes the latch; nothing else. -/
theorem State.drain_eq (s : State) : s.drain = (s.setKp (s.kq.foldl applyKey s.kp)).setKq [] := rfl

/-- A frame read after a push (10_state.md R14). -/
theorem State.frame_pushFrame (s : State) (a : Addr) (k : Nat) :
    (s.pushFrame a).frame k = if k = s.sp then some a else s.frame k := by
  unfold State.frame State.pushFrame State.sp
  simp only [State.setStack_stack, List.reverse_cons]
  by_cases h : k < s.stack.length
  · rw [List.getElem?_append_left (by simpa using h)]
    simp [show k ≠ s.stack.length by omega]
  · by_cases h' : k = s.stack.length
    · subst h'
      simp
    · rw [List.getElem?_eq_none (by simp; omega)]
      rw [List.getElem?_eq_none (by simp; omega)]
      simp [h']

@[simp] theorem State.sp_pushFrame (s : State) (a : Addr) : (s.pushFrame a).sp = s.sp + 1 := by
  simp [State.sp, State.pushFrame]

/-- The newest frame is the one at `SP - 1` (10_state.md R14). -/
theorem State.frame_top (s : State) {a : Addr} {rest : List Addr} (h : s.stack = a :: rest) :
    s.frame (s.sp - 1) = some a := by
  simp [State.frame, State.sp, h]

end Sys2Proof.Machine
end

