-- ==== Sys2Proof/Laws/Frame.lean ====
section
/-! SUPPORT. Frames compose: each update of State keeps a frame whose list names the part it writes. -/

namespace Sys2Proof.Machine

theorem Part.Same.refl (p : Part) (s : State) : p.Same s s := by
  cases p <;> simp [Part.Same]

theorem Part.Same.trans {p : Part} {s t u : State} (h : p.Same s t) (h' : p.Same t u) : p.Same s u := by
  cases p <;> simp_all [Part.Same]

theorem OnlyChanges.refl (ps : List Part) (s : State) : OnlyChanges ps s s :=
  fun p _ => Part.Same.refl p s

theorem OnlyChanges.trans {ps : List Part} {s t u : State} (h : OnlyChanges ps s t) (h' : OnlyChanges ps t u) :
    OnlyChanges ps s u :=
  fun p hp => (h p hp).trans (h' p hp)

/-- A longer list says less. -/
theorem OnlyChanges.mono {ps qs : List Part} {s t : State} (hsub : ∀ p ∈ ps, p ∈ qs) (h : OnlyChanges ps s t) :
    OnlyChanges qs s t :=
  fun p hp => h p (fun hin => hp (hsub p hin))

theorem OnlyChanges.setI {ps : List Part} {s t : State} (hp : Part.i ∈ ps) (h : OnlyChanges ps s t) (w : Word) :
    OnlyChanges ps s (t.setI w) := by
  intro p hn
  have := h p hn
  cases p <;> first | exact this | exact absurd hp hn

theorem OnlyChanges.setPc {ps : List Part} {s t : State} (hp : Part.pc ∈ ps) (h : OnlyChanges ps s t) (a : Addr) :
    OnlyChanges ps s (t.setPc a) := by
  intro p hn
  have := h p hn
  cases p <;> first | exact this | exact absurd hp hn

theorem OnlyChanges.setStack {ps : List Part} {s t : State} (hp : Part.stack ∈ ps) (h : OnlyChanges ps s t) (l : List Addr) :
    OnlyChanges ps s (t.setStack l) := by
  intro p hn
  have := h p hn
  cases p <;> first | exact this | exact absurd hp hn

theorem OnlyChanges.setFb {ps : List Part} {s t : State} (hp : Part.fb ∈ ps) (h : OnlyChanges ps s t) (f : Screen) :
    OnlyChanges ps s (t.setFb f) := by
  intro p hn
  have := h p hn
  cases p <;> first | exact this | exact absurd hp hn

theorem OnlyChanges.setDt {ps : List Part} {s t : State} (hp : Part.dt ∈ ps) (h : OnlyChanges ps s t) (b : Byte) :
    OnlyChanges ps s (t.setDt b) := by
  intro p hn
  have := h p hn
  cases p <;> first | exact this | exact absurd hp hn

theorem OnlyChanges.setSt {ps : List Part} {s t : State} (hp : Part.st ∈ ps) (h : OnlyChanges ps s t) (b : Byte) :
    OnlyChanges ps s (t.setSt b) := by
  intro p hn
  have := h p hn
  cases p <;> first | exact this | exact absurd hp hn

theorem OnlyChanges.setSst {ps : List Part} {s t : State} (hp : Part.sst ∈ ps) (h : OnlyChanges ps s t) (n : Nat) :
    OnlyChanges ps s (t.setSst n) := by
  intro p hn
  have := h p hn
  cases p <;> first | exact this | exact absurd hp hn

theorem OnlyChanges.setKp {ps : List Part} {s t : State} (hp : Part.kp ∈ ps) (h : OnlyChanges ps s t) (k : Vector Bool 16) :
    OnlyChanges ps s (t.setKp k) := by
  intro p hn
  have := h p hn
  cases p <;> first | exact this | exact absurd hp hn

theorem OnlyChanges.setKq {ps : List Part} {s t : State} (hp : Part.kq ∈ ps) (h : OnlyChanges ps s t) (q : List KeyEvent) :
    OnlyChanges ps s (t.setKq q) := by
  intro p hn
  have := h p hn
  cases p <;> first | exact this | exact absurd hp hn

theorem OnlyChanges.setAp {ps : List Part} {s t : State} (hp : Part.ap ∈ ps) (h : OnlyChanges ps s t) (b : Bool) :
    OnlyChanges ps s (t.setAp b) := by
  intro p hn
  have := h p hn
  cases p <;> first | exact this | exact absurd hp hn

theorem OnlyChanges.setRs {ps : List Part} {s t : State} (hp : Part.rs ∈ ps) (h : OnlyChanges ps s t) (r : RunState) :
    OnlyChanges ps s (t.setRs r) := by
  intro p hn
  have := h p hn
  cases p <;> first | exact this | exact absurd hp hn

theorem OnlyChanges.setMem {ps : List Part} {s t : State} (hp : Part.mem ∈ ps) (h : OnlyChanges ps s t) (m : List Host.Cell) :
    OnlyChanges ps s (t.setMem m) := by
  intro p hn
  have := h p hn
  cases p <;> first | exact this | exact absurd hp hn

theorem OnlyChanges.setStrobes {ps : List Part} {s t : State} (hp : Part.strobes ∈ ps) (h : OnlyChanges ps s t) (o : Strobes) :
    OnlyChanges ps s (t.setStrobes o) := by
  intro p hn
  have := h p hn
  cases p <;> first | exact this | exact absurd hp hn

theorem OnlyChanges.setScript {ps : List Part} {s t : State} (hp : Part.script ∈ ps) (h : OnlyChanges ps s t) (l : List EnvMove) :
    OnlyChanges ps s (t.setScript l) := by
  intro p hn
  have := h p hn
  cases p <;> first | exact this | exact absurd hp hn

theorem OnlyChanges.setReg {ps : List Part} {s t : State} (hp : Part.v ∈ ps) (h : OnlyChanges ps s t) (r : Nibble) (b : Byte) :
    OnlyChanges ps s (t.setReg r b) := by
  intro p hn
  have := h p hn
  cases p <;> first | exact this | exact absurd hp hn

theorem OnlyChanges.drawRnd {ps : List Part} {s t : State} (hp : Part.rndIndex ∈ ps) (h : OnlyChanges ps s t) :
    OnlyChanges ps s t.drawRnd := by
  intro p hn
  have := h p hn
  cases p <;> first | exact this | exact absurd hp hn

theorem OnlyChanges.readClock {ps : List Part} {s t : State} (hc : Part.clock ∈ ps) (hi : Part.nowIndex ∈ ps)
    (h : OnlyChanges ps s t) : OnlyChanges ps s t.readClock := by
  intro p hn
  have := h p hn
  cases p <;> first | exact this | exact absurd hc hn | exact absurd hi hn

theorem OnlyChanges.raise {ps : List Part} {s t : State} (h1 : Part.rs ∈ ps) (h2 : Part.fcause ∈ ps)
    (h3 : Part.finfo ∈ ps) (h : OnlyChanges ps s t) (e : Exc) (w : Word) : OnlyChanges ps s (t.raise e w) := by
  intro p hn
  have := h p hn
  cases p <;> first | exact this | exact absurd h1 hn | exact absurd h2 hn | exact absurd h3 hn

theorem RegsKeptExcept.setReg {rs : List Nibble} {s t : State} (r : Nibble) (b : Byte) (hr : r ∈ rs)
    (h : RegsKeptExcept rs s t) : RegsKeptExcept rs s (t.setReg r b) := by
  intro q hq
  have hne : q ≠ r := fun e => hq (e ▸ hr)
  rw [State.reg_setReg, if_neg hne]
  exact h q hq

theorem RegsKeptExcept.refl (rs : List Nibble) (s : State) : RegsKeptExcept rs s s := fun _ _ => rfl

end Sys2Proof.Machine
end

