-- ==== Sys2Proof/Laws/Keypad.lean ====
section
/-! SUPPORT. What the key-event operations leave: the drain (44_keypad_and_timers.md R131) and the wait for a press (R135). -/

namespace Sys2Proof.Machine

/-- Applying events in order leaves each key at its last event (R131). -/
theorem keyDown_foldl (q : List KeyEvent) (kp : Vector Bool 16) (k : Nibble) :
    keyDown (q.foldl applyKey kp) k = (lastEvent q k).getD (keyDown kp k) := by
  induction q generalizing kp with
  | nil => rfl
  | cons e q ih =>
    rw [List.foldl_cons, ih, keyDown_applyKey, lastEvent]
    cases lastEvent q k with
    | some p => rfl
    | none =>
      by_cases h : k = e.key
      · simp [h]
      · simp [h, Ne.symm h]

/-- The latch after a drain. -/
theorem State.keyDown_drain (s : State) (k : Nibble) : keyDown s.drain.kp k = LatchAfter s s.kq k :=
  keyDown_foldl s.kq s.kp k

/-- A queue of releases runs out: every event is applied and there is no press (R135). -/
theorem awaitPress_releases (q : List KeyEvent) (kp : Vector Bool 16) (h : ∀ e ∈ q, e.pressed = false) :
    awaitPress kp q = (q.foldl applyKey kp, none) := by
  induction q generalizing kp with
  | nil => rfl
  | cons e q ih =>
    rw [awaitPress, h e (by simp), if_neg (by simp)]
    exact ih _ (fun e' he' => h e' (by simp [he']))

/-- The first press of a queue: the events before it and itself are applied, the events behind it stay (R135). -/
theorem awaitPress_press (before after : List KeyEvent) (k : Nibble) (kp : Vector Bool 16)
    (h : ∀ e ∈ before, e.pressed = false) :
    awaitPress kp (before ++ KeyEvent.mk k true :: after) =
      ((before ++ [KeyEvent.mk k true]).foldl applyKey kp, some (k, after)) := by
  induction before generalizing kp with
  | nil => simp [awaitPress]
  | cons e q ih =>
    rw [List.cons_append, awaitPress, h e (by simp), if_neg (by simp)]
    exact ih _ (fun e' he' => h e' (by simp [he']))

/-- Everything the wait can do: the queue runs out of releases, or its first press is found. -/
theorem awaitPress_cases (q : List KeyEvent) (kp : Vector Bool 16) :
    ((∀ e ∈ q, e.pressed = false) ∧ awaitPress kp q = (q.foldl applyKey kp, none)) ∨
    ∃ before k after, q = before ++ KeyEvent.mk k true :: after ∧
      (∀ e ∈ before, e.pressed = false) ∧
      awaitPress kp q = ((before ++ [KeyEvent.mk k true]).foldl applyKey kp, some (k, after)) := by
  induction q with
  | nil => exact .inl ⟨by simp, rfl⟩
  | cons e q ih =>
    by_cases he : e.pressed = true
    · refine .inr ⟨[], e.key, q, ?_, by simp, ?_⟩
      · cases e
        simp_all
      · rw [awaitPress, if_pos he]
        cases e
        simp_all
    · have he' : e.pressed = false := by simpa using he
      rcases ih with ⟨hall, -⟩ | ⟨before, k, after, hq, hb, -⟩
      · have hall' : ∀ e' ∈ e :: q, e'.pressed = false := by
          intro e' h'
          rcases List.mem_cons.mp h' with rfl | h'
          · exact he'
          · exact hall e' h'
        exact .inl ⟨hall', awaitPress_releases _ _ hall'⟩
      · have hb' : ∀ e' ∈ e :: before, e'.pressed = false := by
          intro e' h'
          rcases List.mem_cons.mp h' with rfl | h'
          · exact he'
          · exact hb e' h'
        refine .inr ⟨e :: before, k, after, by rw [hq]; rfl, hb', ?_⟩
        rw [hq]
        exact awaitPress_press (e :: before) after k kp hb'

end Sys2Proof.Machine
end

