-- ==== Sys2Proof/Laws/Operands.lean ====
section
/-! SUPPORT. What the operand forms and the shared memory operations of Machine/Operands.lean do: the effective address, a
store of bytes (20_memory.md R35, 42_index_and_memory.md R114, R115) and a load of registers (R117). -/

namespace Sys2Proof.Machine

/-- 42_index_and_memory.md R110: `(I + k) mod 4096`. -/
theorem toNat_ea (i : Word) (k : Nat) : (ea i k).toNat = (i.toNat + k) % 4096 := by
  simp only [ea, BitVec.toNat_setWidth, BitVec.toNat_add, BitVec.toNat_ofNat]
  omega

theorem isEa_iff (s : State) (k : Nat) (a : Addr) : IsEa s k a ↔ a = ea s.i k := by
  unfold IsEa
  rw [← toNat_ea]
  exact ⟨fun h => BitVec.eq_of_toNat_eq h, fun h => by rw [h]⟩

/-- Two of at most 4096 consecutive offsets never give the same address (20_memory.md R37). -/
theorem ea_inj {i : Word} {j k : Nat} (hj : j < k + 4096) (hk : k < j + 4096) (h : ea i j = ea i k) : j = k := by
  have := congrArg BitVec.toNat h
  rw [toNat_ea, toNat_ea] at this
  omega

/-- A store of one byte writes memory only, and keeps its canonical form. -/
theorem State.storeByte_eq_setMem (s : State) (a : Addr) (b : Byte) :
    ∃ m, s.storeByte a b = s.setMem m ∧ (Memory.wf s.mem = true → Memory.wf m = true) := by
  unfold State.storeByte
  split
  · exact ⟨s.mem, rfl, id⟩
  · exact ⟨_, rfl, fun h => State.wf_poke a b h⟩

/-- A byte read after a store of one byte (20_memory.md R35). -/
theorem State.byteAt_storeByte (s : State) (a a' : Addr) (b : Byte) :
    (s.storeByte a b).byteAt a' =
      if a' = a ∧ ¬ (s.cfg.fontWrite = .ignore ∧ a.toNat < 80) then b else s.byteAt a' := by
  unfold State.storeByte
  by_cases h : s.cfg.fontWrite = .ignore ∧ inFont a = true
  · have h' : s.cfg.fontWrite = .ignore ∧ a.toNat < 80 := by simpa [inFont, Config.fontSize] using h
    rw [if_pos h, if_neg (fun hn => hn.2 h')]
  · have h' : ¬ (s.cfg.fontWrite = .ignore ∧ a.toNat < 80) := by simpa [inFont, Config.fontSize] using h
    rw [if_neg h, State.byteAt_poke]
    by_cases ha : a' = a
    · rw [if_pos ha, if_pos ⟨ha, h'⟩]
    · rw [if_neg ha, if_neg (fun hn => ha hn.1)]

/-- A store of bytes writes memory only, and keeps its canonical form. -/
theorem State.storeBytes_eq_setMem (bs : List Byte) (s : State) (k : Nat) :
    ∃ m, s.storeBytes k bs = s.setMem m ∧ (Memory.wf s.mem = true → Memory.wf m = true) := by
  induction bs generalizing s k with
  | nil => exact ⟨s.mem, rfl, id⟩
  | cons b bs ih =>
    obtain ⟨m, hm, hw⟩ := State.storeByte_eq_setMem s (ea s.i k) b
    obtain ⟨m', hm', hw'⟩ := ih (s.storeByte (ea s.i k) b) (k + 1)
    refine ⟨m', ?_, fun h => hw' ?_⟩
    · rw [State.storeBytes, hm', hm]
      rfl
    · rw [hm]
      exact hw h

/-- A byte outside the stored addresses is as before. -/
theorem State.byteAt_storeBytes_miss (bs : List Byte) (s : State) (k : Nat) (a : Addr)
    (h : ∀ j, j < bs.length → a ≠ ea s.i (k + j)) : (s.storeBytes k bs).byteAt a = s.byteAt a := by
  induction bs generalizing s k with
  | nil => rfl
  | cons b bs ih =>
    have h0 : a ≠ ea s.i k := by simpa using h 0 (by simp)
    have hi : (s.storeByte (ea s.i k) b).i = s.i := by
      obtain ⟨m, hm, -⟩ := State.storeByte_eq_setMem s (ea s.i k) b
      rw [hm, State.setMem_i]
    rw [State.storeBytes, ih _ _ (fun j hj => ?_), State.byteAt_storeByte, if_neg (fun hn => h0 hn.1)]
    rw [hi]
    have := h (j + 1) (by simpa using hj)
    rwa [show k + (j + 1) = k + 1 + j by omega] at this

/-- The byte at the j-th stored address: the j-th byte stored, or the old one where FONT_WRITE_MODE drops it. -/
theorem State.byteAt_storeBytes_hit (bs : List Byte) (s : State) (k j : Nat) (a : Addr) (hlen : bs.length ≤ 4096)
    (hj : j < bs.length) (ha : a = ea s.i (k + j)) :
    (s.storeBytes k bs).byteAt a =
      if s.cfg.fontWrite = .ignore ∧ a.toNat < 80 then s.byteAt a else bs[j] := by
  induction bs generalizing s k j with
  | nil => simp at hj
  | cons b bs ih =>
    obtain ⟨m, hm, -⟩ := State.storeByte_eq_setMem s (ea s.i k) b
    have hi : (s.storeByte (ea s.i k) b).i = s.i := by rw [hm, State.setMem_i]
    have hc : (s.storeByte (ea s.i k) b).cfg = s.cfg := by rw [hm, State.setMem_cfg]
    have hlen' : bs.length + 1 ≤ 4096 := by simpa using hlen
    rw [State.storeBytes]
    cases j with
    | zero =>
      have ha' : a = ea s.i k := by simpa using ha
      rw [State.byteAt_storeBytes_miss, State.byteAt_storeByte]
      · subst ha'
        by_cases hf : s.cfg.fontWrite = .ignore ∧ (ea s.i k).toNat < 80
        · rw [if_neg (fun hn => hn.2 hf), if_pos hf]
        · rw [if_pos ⟨rfl, hf⟩, if_neg hf]
          rfl
      · intro j' hj' he
        rw [hi, ha'] at he
        have := ea_inj (by omega) (by omega) he
        omega
    | succ j =>
      have hj' : j < bs.length := by simpa using hj
      have ha' : a = ea s.i (k + 1 + j) := by rw [ha, show k + (j + 1) = k + 1 + j by omega]
      have hne : a ≠ ea s.i k := by
        rw [ha']
        intro he
        have := ea_inj (by omega) (by omega) he
        omega
      have hb : (s.storeByte (ea s.i k) b).byteAt a = s.byteAt a := by
        rw [State.byteAt_storeByte, if_neg (fun hn => hne hn.1)]
      rw [ih _ (k + 1) j (by omega) hj' (by rw [hi]; exact ha'), hc, hb]
      rfl

/-- Which address of a store is the first in the font region (60_exceptions.md R154). -/
theorem firstFontAddr_eq_some {i : Word} {n k : Nat} (hk : k < n) (hin : (i.toNat + k) % 4096 < 80)
    (hfirst : ∀ j, j < k → 80 ≤ (i.toNat + j) % 4096) : firstFontAddr i n = some (ea i k) := by
  unfold firstFontAddr storeAddrs
  rw [List.find?_map, Option.map_eq_some_iff]
  refine ⟨k, ?_, rfl⟩
  rw [List.find?_range_eq_some]
  refine ⟨by simpa [inFont, Config.fontSize, toNat_ea] using hin, by simpa using hk, fun j hj => ?_⟩
  have := hfirst j hj
  simp [inFont, Config.fontSize, toNat_ea]
  omega

theorem firstFontAddr_eq_none {i : Word} {n : Nat} (h : ∀ k, k < n → 80 ≤ (i.toNat + k) % 4096) :
    firstFontAddr i n = none := by
  unfold firstFontAddr storeAddrs
  rw [List.find?_eq_none]
  intro a ha
  obtain ⟨k, hk, rfl⟩ := List.mem_map.mp ha
  have := h k (List.mem_range.mp hk)
  simp [inFont, Config.fontSize, toNat_ea]
  omega

/-- A store outside mode `fault`, or outside the font region, stores every byte and goes on. -/
theorem State.storeAll_stores {s : State} {bs : List Byte}
    (h : ¬ (s.cfg.fontWrite = .fault ∧ HitsFont s bs.length)) :
    s.storeAll bs = (s.storeBytes 0 bs).advance := by
  unfold State.storeAll
  split
  · rename_i a hf hs
    have : firstFontAddr s.i bs.length = none :=
      firstFontAddr_eq_none (fun k hk => by
        by_contra hc
        exact h ⟨hf, k, hk, by omega⟩)
    rw [this] at hs
    cases hs
  · rfl

/-- Everything a store can do: FontWrite with no byte written, or all its bytes and NEXT. -/
theorem State.storeAll_cases (s : State) (bs : List Byte) :
    (∃ a, s.cfg.fontWrite = .fault ∧ firstFontAddr s.i bs.length = some a ∧
      s.storeAll bs = s.raise .fontWrite (a.setWidth 16)) ∨
    s.storeAll bs = (s.storeBytes 0 bs).advance := by
  unfold State.storeAll
  split
  · rename_i a hf hs
    exact .inl ⟨a, hf, hs, rfl⟩
  · exact .inr rfl

/-- What a store leaves in memory, in the terms of the claims. -/
theorem State.storesFromI_storeBytes (s : State) (bs : List Byte) (bytes : Nat → Byte) (hlen : bs.length ≤ 4096)
    (hb : ∀ k (h : k < bs.length), bs[k] = bytes k) :
    StoresFromI s (s.storeBytes 0 bs).advance bs.length bytes := by
  refine ⟨fun a k hk ha => ?_, fun a ha => ?_⟩
  · rw [isEa_iff] at ha
    rw [State.advance_eq, State.setPc_byteAt,
      State.byteAt_storeBytes_hit bs s 0 k a hlen hk (by simpa using ha), hb k hk]
  · rw [State.advance_eq, State.setPc_byteAt]
    exact State.byteAt_storeBytes_miss bs s 0 a
      (fun j hj he => ha j hj ((isEa_iff s j a).mpr (by simpa using he)))

@[simp] theorem State.length_regsUpTo (s : State) (x : Nibble) : (s.regsUpTo x).length = x.toNat + 1 := by
  simp [State.regsUpTo]

theorem State.getElem_regsUpTo (s : State) (x : Nibble) (k : Nat) (h : k < (s.regsUpTo x).length) :
    (s.regsUpTo x)[k] = s.reg (BitVec.ofNat 4 k) := by
  simp [State.regsUpTo]

/-- Loading more registers is one load after the others. -/
theorem State.loadRegs_succ (s : State) (n : Nat) :
    s.loadRegs (n + 1) = (s.loadRegs n).setReg (BitVec.ofNat 4 n) ((s.loadRegs n).byteAt (ea (s.loadRegs n).i n)) := by
  unfold State.loadRegs
  rw [List.range_succ, List.foldl_append]
  rfl

/-- A load writes registers only. -/
theorem State.loadRegs_eq_withV (s : State) (n : Nat) : ∃ v, s.loadRegs n = { s with v := v } := by
  induction n with
  | zero => exact ⟨s.v, rfl⟩
  | succ n ih =>
    obtain ⟨v, hv⟩ := ih
    rw [State.loadRegs_succ, hv]
    exact ⟨_, rfl⟩

/-- A load keeps a frame that lists the registers. -/
theorem OnlyChanges.loadRegs {ps : List Part} {s t : State} (hp : Part.v ∈ ps) (h : OnlyChanges ps s t) (n : Nat) :
    OnlyChanges ps s (t.loadRegs n) := by
  induction n with
  | zero => exact h
  | succ n ih =>
    rw [State.loadRegs_succ]
    exact OnlyChanges.setReg hp ih _ _

/-- A store keeps a frame that lists memory. -/
theorem OnlyChanges.storeBytes {ps : List Part} {s t : State} (hp : Part.mem ∈ ps) (h : OnlyChanges ps s t) (k : Nat)
    (bs : List Byte) : OnlyChanges ps s (t.storeBytes k bs) := by
  obtain ⟨m, hm, -⟩ := State.storeBytes_eq_setMem bs t k
  rw [hm]
  exact OnlyChanges.setMem hp h _

/-- The registers after a load of V[0] to V[n - 1]: the byte at `EA(k)` below n, the old value from n on (R117). -/
theorem State.reg_loadRegs (s : State) (n : Nat) (hn : n ≤ 16) (r : Nibble) :
    (s.loadRegs n).reg r = if r.toNat < n then s.byteAt (ea s.i r.toNat) else s.reg r := by
  induction n with
  | zero => simp [State.loadRegs]
  | succ n ih =>
    obtain ⟨v, hv⟩ := State.loadRegs_eq_withV s n
    have hi : (s.loadRegs n).i = s.i := by rw [hv]
    have hb : ∀ a, (s.loadRegs n).byteAt a = s.byteAt a := fun a => by rw [hv]; rfl
    have hlt : n < 16 := by omega
    rw [State.loadRegs_succ, State.reg_setReg, ih (by omega), hi, hb]
    by_cases hr : r = BitVec.ofNat 4 n
    · have hrn : r.toNat = n := by rw [hr, BitVec.toNat_ofNat]; omega
      rw [if_pos hr, if_pos (by omega), hrn]
    · have hrn : r.toNat ≠ n := fun e => hr (BitVec.eq_of_toNat_eq (by rw [BitVec.toNat_ofNat]; omega))
      rw [if_neg hr]
      by_cases hlt' : r.toNat < n
      · rw [if_pos hlt', if_pos (by omega)]
      · rw [if_neg hlt', if_neg (by omega)]

end Sys2Proof.Machine
end

