-- ==== Sys2Proof/Laws/Cycle.lean ====
section
/-! SUPPORT. What a step can do, said once: every instruction answers a next state; a step by the environment's move; a
cycle by its word; the audio by its four cases (40_cycle_and_control.md R70, R72, 60_exceptions.md R161). -/

namespace Sys2Proof.Machine

/-- Phase P4 answers a next state for every instruction and every state: no instruction of this machine stops it
outside RS (60_exceptions.md R152, R155). -/
theorem exec_isNext (i : Instr) (s : State) : ∃ t, exec i s = .next t := by
  cases i
  case ret =>
    rw [exec, execRet]
    cases s.stack <;> exact ⟨_, rfl⟩
  case call nnn =>
    rw [exec, execCall]
    cases s.stackFull <;> exact ⟨_, rfl⟩
  case ldVxK x =>
    rw [exec, execLdVxK]
    rcases awaitPress s.kp s.kq with ⟨kp, _ | ⟨k, q⟩⟩ <;> exact ⟨_, rfl⟩
  all_goals exact ⟨_, rfl⟩

@[simp] theorem State.atTick_v (s : State) : s.atTick.v = s.v := rfl
@[simp] theorem State.atTick_i (s : State) : s.atTick.i = s.i := rfl
@[simp] theorem State.atTick_pc (s : State) : s.atTick.pc = s.pc := rfl
@[simp] theorem State.atTick_stack (s : State) : s.atTick.stack = s.stack := rfl
@[simp] theorem State.atTick_fb (s : State) : s.atTick.fb = s.fb := rfl
@[simp] theorem State.atTick_dt (s : State) : s.atTick.dt = s.dt := rfl
@[simp] theorem State.atTick_st (s : State) : s.atTick.st = s.st := rfl
@[simp] theorem State.atTick_sst (s : State) : s.atTick.sst = s.sst := rfl
@[simp] theorem State.atTick_kp (s : State) : s.atTick.kp = s.kp := rfl
@[simp] theorem State.atTick_kq (s : State) : s.atTick.kq = s.kq ++ s.arrivals := rfl
@[simp] theorem State.atTick_ap (s : State) : s.atTick.ap = s.ap := rfl
@[simp] theorem State.atTick_rs (s : State) : s.atTick.rs = s.rs := rfl
@[simp] theorem State.atTick_fcause (s : State) : s.atTick.fcause = s.fcause := rfl
@[simp] theorem State.atTick_finfo (s : State) : s.atTick.finfo = s.finfo := rfl
@[simp] theorem State.atTick_mem (s : State) : s.atTick.mem = s.mem := rfl
@[simp] theorem State.atTick_cfg (s : State) : s.atTick.cfg = s.cfg := rfl
@[simp] theorem State.atTick_strobes (s : State) : s.atTick.strobes = Strobes.none := rfl
@[simp] theorem State.atTick_script (s : State) : s.atTick.script = s.script.tail := rfl
@[simp] theorem State.atTick_rndIndex (s : State) : s.atTick.rndIndex = s.rndIndex := rfl
@[simp] theorem State.atTick_nowIndex (s : State) : s.atTick.nowIndex = s.nowIndex := rfl
@[simp] theorem State.atTick_clock (s : State) : s.atTick.clock = s.clock := rfl
@[simp] theorem State.atTick_tickIndex (s : State) : s.atTick.tickIndex = s.tickIndex + 1 := rfl
@[simp] theorem State.atTick_reg (s : State) (r : Nibble) : s.atTick.reg r = s.reg r := rfl
@[simp] theorem State.atTick_byteAt (s : State) (a : Addr) : s.atTick.byteAt a = s.byteAt a := rfl
@[simp] theorem State.atTick_fetch (s : State) : s.atTick.fetch = s.fetch := rfl
@[simp] theorem State.atTick_sp (s : State) : s.atTick.sp = s.sp := rfl
@[simp] theorem State.atTick_frame (s : State) (k : Nat) : s.atTick.frame k = s.frame k := rfl

@[simp] theorem State.tickTimers_v (s : State) : s.tickTimers.v = s.v := rfl
@[simp] theorem State.tickTimers_i (s : State) : s.tickTimers.i = s.i := rfl
@[simp] theorem State.tickTimers_pc (s : State) : s.tickTimers.pc = s.pc := rfl
@[simp] theorem State.tickTimers_stack (s : State) : s.tickTimers.stack = s.stack := rfl
@[simp] theorem State.tickTimers_fb (s : State) : s.tickTimers.fb = s.fb := rfl
@[simp] theorem State.tickTimers_dt (s : State) : s.tickTimers.dt = timerDown s.dt := rfl
@[simp] theorem State.tickTimers_st (s : State) : s.tickTimers.st = timerDown s.st := rfl
@[simp] theorem State.tickTimers_sst (s : State) : s.tickTimers.sst = s.sst := rfl
@[simp] theorem State.tickTimers_kp (s : State) : s.tickTimers.kp = s.kp := rfl
@[simp] theorem State.tickTimers_kq (s : State) : s.tickTimers.kq = s.kq := rfl
@[simp] theorem State.tickTimers_ap (s : State) : s.tickTimers.ap = s.ap := rfl
@[simp] theorem State.tickTimers_rs (s : State) : s.tickTimers.rs = s.rs := rfl
@[simp] theorem State.tickTimers_fcause (s : State) : s.tickTimers.fcause = s.fcause := rfl
@[simp] theorem State.tickTimers_finfo (s : State) : s.tickTimers.finfo = s.finfo := rfl
@[simp] theorem State.tickTimers_mem (s : State) : s.tickTimers.mem = s.mem := rfl
@[simp] theorem State.tickTimers_cfg (s : State) : s.tickTimers.cfg = s.cfg := rfl
@[simp] theorem State.tickTimers_strobes (s : State) : s.tickTimers.strobes = s.strobes := rfl
@[simp] theorem State.tickTimers_script (s : State) : s.tickTimers.script = s.script := rfl
@[simp] theorem State.tickTimers_rndIndex (s : State) : s.tickTimers.rndIndex = s.rndIndex := rfl
@[simp] theorem State.tickTimers_nowIndex (s : State) : s.tickTimers.nowIndex = s.nowIndex := rfl
@[simp] theorem State.tickTimers_clock (s : State) : s.tickTimers.clock = s.clock := rfl
@[simp] theorem State.tickTimers_tickIndex (s : State) : s.tickTimers.tickIndex = s.tickIndex := rfl
@[simp] theorem State.tickTimers_reg (s : State) (r : Nibble) : s.tickTimers.reg r = s.reg r := rfl
@[simp] theorem State.tickTimers_byteAt (s : State) (a : Addr) : s.tickTimers.byteAt a = s.byteAt a := rfl
@[simp] theorem State.tickTimers_fetch (s : State) : s.tickTimers.fetch = s.fetch := rfl
@[simp] theorem State.tickTimers_sp (s : State) : s.tickTimers.sp = s.sp := rfl
@[simp] theorem State.tickTimers_frame (s : State) (k : Nat) : s.tickTimers.frame k = s.frame k := rfl

/-- A tick that the script fixes brings no key event with it (log 36). -/
theorem State.arrivals_of_script {s : State} (h : s.script ≠ []) : s.arrivals = [] := by
  unfold State.arrivals
  cases hs : s.script with
  | nil => exact absurd hs h
  | cons m r => rfl

/-- What a tick finds differs from the state before it in the strobes, the script, the queue's end and the count only. -/
theorem State.atTick_onlyChanges (s : State) : OnlyChanges [.strobes, .script, .kq, .tickIndex] s s.atTick :=
  fun p hn => by cases p <;> simp_all [Part.Same]

/-- A step on a tick (logs 2, 36). -/
theorem step_of_tick {s : State} (h : s.ticksNext) : step s = tickMove s.atTick := by
  unfold step runStep
  rcases h with h | ⟨r, h⟩ <;> rw [h]

/-- A step on a key event. -/
theorem step_of_key {s : State} {e : KeyEvent} {r : List EnvMove} (h : s.script = .key e :: r) :
    step s = keyMove e (s.beginStep.setScript r) := by
  unfold step runStep
  rw [h]

/-- A step on a reset. -/
theorem step_of_reset {s : State} {image : List Byte} {r : List EnvMove} (h : s.script = .reset image :: r) :
    step s = (s.beginStep.setScript r).resetMove image := by
  unfold step runStep
  rw [h]

/-- What a move is: a tick, a key event or a reset. -/
theorem State.move_cases (s : State) :
    s.ticksNext ∨ (∃ e r, s.script = .key e :: r) ∨ ∃ image r, s.script = .reset image :: r := by
  unfold State.ticksNext
  cases s.script with
  | nil => exact .inl (.inl rfl)
  | cons m r =>
    cases m with
    | tick => exact .inl (.inr ⟨r, rfl⟩)
    | key e => exact .inr (.inl ⟨e, r, rfl⟩)
    | reset image => exact .inr (.inr ⟨image, r, rfl⟩)

@[simp] theorem State.afterP1_fetch (s : State) : s.afterP1.fetch = s.fetch := by
  rw [State.afterP1, State.tickTimers_fetch, State.atTick_fetch]

/-- A running machine's tick runs phases P2 to P6 from the state P1 left. -/
theorem step_of_cycle {s : State} (hr : s.rs = .running) (h : s.ticksNext) : step s = runCycle s.afterP1 := by
  have ht : s.atTick.rs = .running := hr
  rw [step_of_tick h, tickMove, ht, State.afterP1]

/-- A cycle whose word is illegal. -/
theorem runCycle_of_illegal {s : State} (h : decode s.fetch = none) :
    runCycle s = .next (s.raise .illegalOpcode s.fetch) := by
  unfold runCycle
  rw [h]

/-- A cycle whose word decodes: P4, then P5 and P6 when the machine still runs. -/
theorem runCycle_of_decode {s t : State} {i : Instr} (h : decode s.fetch = some i) (ht : exec i s = .next t) :
    runCycle s = .next t.finish := by
  unfold runCycle
  rw [h]
  simp only [ht, finishOutcome]

/-- A wait that goes on: nothing queued, or the loop of R135 again. -/
theorem resumeWait_cases (s : State) :
    (s.kq = [] ∧ resumeWait s = .next s) ∨
    (s.kq ≠ [] ∧ ∃ t, exec (.ldVxK (opX s.fetch)) s = .next t ∧ resumeWait s = .next t.finish) := by
  unfold resumeWait
  cases h : s.kq with
  | nil => exact .inl ⟨rfl, rfl⟩
  | cons e q =>
    obtain ⟨t, ht⟩ := exec_isNext (.ldVxK (opX s.fetch)) s
    exact .inr ⟨by simp, t, ht, by simp only [ht, finishOutcome]⟩

/-- Everything a resumed wait can do, by its queue: releases only are applied and the wait goes on (a wait with nothing queued
among them, but for RS, which is WAITKEY there already); the first press completes the cycle (44_keypad_and_timers.md R135). -/
theorem resumeWait_queue (s : State) (hr : s.rs = .waitKey) :
    ((∀ e ∈ s.kq, e.pressed = false) ∧
      resumeWait s = .next (((s.setKp (s.kq.foldl applyKey s.kp)).setKq []).setRs .waitKey)) ∨
    ∃ before k after, s.kq = before ++ KeyEvent.mk k true :: after ∧ (∀ e ∈ before, e.pressed = false) ∧
      resumeWait s = .next (((((s.setKp ((before ++ [KeyEvent.mk k true]).foldl applyKey s.kp)).setKq after).setReg
        (opX s.fetch) (k.setWidth 8)).setRs .running).advance).finish := by
  rcases resumeWait_cases s with ⟨hq, h⟩ | ⟨-, t, hx, h⟩
  · refine .inl ⟨by simp [hq], ?_⟩
    rw [h]
    cases s
    simp_all [State.setKp, State.setKq, State.setRs]
  · rcases awaitPress_cases s.kq s.kp with ⟨hq, ha⟩ | ⟨before, k, after, hq, hb, ha⟩
    · refine .inl ⟨hq, ?_⟩
      simp only [exec, execLdVxK, ha] at hx
      cases hx
      rw [h, State.finish, if_neg (by simp)]
    · refine .inr ⟨before, k, after, hq, hb, ?_⟩
      simp only [exec, execLdVxK, ha] at hx
      cases hx
      rw [h]

/-- A step on a tick of a waiting machine. -/
theorem step_of_waiting {s : State} (hr : s.rs = .waitKey) (h : s.ticksNext) : step s = resumeWait s.atTick := by
  have ht : s.atTick.rs = .waitKey := hr
  rw [step_of_tick h, tickMove, ht]

/-- The four things P5 can do (60_exceptions.md R161). -/
theorem State.audio_cases (s : State) :
    (0 < s.st.toNat ∧ s.ap = true ∧ s.audio = s) ∨
    (0 < s.st.toNat ∧ s.ap = false ∧ s.audio = (s.setAp true).setStrobes { s.strobes with play := true }) ∨
    (s.st.toNat = 0 ∧ s.ap = false ∧ s.audio = s) ∨
    (s.st.toNat = 0 ∧ s.ap = true ∧ s.now < s.sst + Config.holdMs ∧ s.audio = s.readClock) ∨
    (s.st.toNat = 0 ∧ s.ap = true ∧ s.sst + Config.holdMs ≤ s.now ∧
      s.audio = (s.readClock.setAp false).setStrobes { s.strobes with pause := true }) := by
  unfold State.audio
  by_cases hst : 0 < s.st.toNat
  · rw [if_pos hst]
    cases hap : s.ap
    · exact .inr (.inl ⟨hst, rfl, by simp⟩)
    · exact .inl ⟨hst, rfl, by simp⟩
  · rw [if_neg hst]
    have h0 : s.st.toNat = 0 := by omega
    cases hap : s.ap
    · exact .inr (.inr (.inl ⟨h0, rfl, by simp⟩))
    · by_cases hh : Config.holdMs ≤ s.now - s.sst
      · exact .inr (.inr (.inr (.inr ⟨h0, rfl, by simp only [Config.holdMs] at *; omega, by simp [hh]⟩)))
      · exact .inr (.inr (.inr (.inl ⟨h0, rfl, by simp only [Config.holdMs] at *; omega, by simp [hh]⟩)))

/-- P5 changes the audio latch, the strobes and the clock only. -/
theorem State.audio_frame (s : State) : OnlyChanges [.ap, .strobes, .nowIndex, .clock] s s.audio := by
  rcases s.audio_cases with ⟨-, -, h⟩ | ⟨-, -, h⟩ | ⟨-, -, h⟩ | ⟨-, -, -, h⟩ | ⟨-, -, -, h⟩ <;> rw [h]
  · exact .refl _ _
  · exact .setStrobes (by simp) (.setAp (by simp) (.refl _ _) _) _
  · exact .refl _ _
  · exact .readClock (by simp) (by simp) (.refl _ _)
  · exact .setStrobes (by simp) (.setAp (by simp) (.readClock (by simp) (by simp) (.refl _ _)) _) _

/-- P5 and P6 change the audio latch, the strobes and the clock only. -/
theorem State.finish_frame (s : State) : OnlyChanges [.ap, .strobes, .nowIndex, .clock] s s.finish := by
  unfold State.finish
  split
  · exact .setStrobes (by simp) s.audio_frame _
  · exact .refl _ _

/-- P5 and P6 of a completed cycle that has emitted no strobe so far decide the audio as 60_exceptions.md R161 says. -/
theorem State.finish_audioDecided {u : State} (hr : u.rs = .running) (hs : u.strobes = Strobes.none) :
    AudioDecided u u.finish := by
  rw [State.finish, if_pos hr]
  rcases u.audio_cases with ⟨h1, h2, h⟩ | ⟨h1, h2, h⟩ | ⟨h1, h2, h⟩ | ⟨h1, h2, h3, h⟩ | ⟨h1, h2, h3, h⟩ <;> rw [h] <;>
    simp_all [AudioDecided, State.render, State.readClock, State.now, Strobes.none]
  all_goals omega

/-- What P5 decides depends on ST, AP, SST and the clock of the state before it only. -/
theorem AudioDecided.of_eq {u u' t : State} (h : AudioDecided u t) (hst : u'.st = u.st) (hap : u'.ap = u.ap)
    (hsst : u'.sst = u.sst) (hc : u'.clock = u.clock) (hn : u'.nowIndex = u.nowIndex) : AudioDecided u' t := by
  unfold AudioDecided at *
  rw [hst, hap, hsst, hc, hn]
  exact h

/-- P5 and P6 do not touch memory's list. -/
theorem State.finish_mem (s : State) : s.finish.mem = s.mem := by
  unfold State.finish State.render
  split
  · rcases s.audio_cases with ⟨-, -, h⟩ | ⟨-, -, h⟩ | ⟨-, -, h⟩ | ⟨-, -, -, h⟩ | ⟨-, -, -, h⟩ <;> rw [h] <;> rfl
  · rfl

/-- One timer's decrement as a number (60_exceptions.md R160). -/
theorem toNat_timerDown (b : Byte) : (timerDown b).toNat = b.toNat - 1 := by
  unfold timerDown
  have := b.isLt
  split
  · rename_i h
    rw [h]
    rfl
  · rename_i h
    have hb : b.toNat ≠ 0 := fun e => h (BitVec.eq_of_toNat_eq e)
    rw [BitVec.toNat_sub, show (1#8).toNat = 1 from rfl]
    omega

/-- Phase P1's frame. -/
theorem State.afterP1_frame (s : State) : OnlyChanges [.dt, .st] s.atTick s.afterP1 :=
  fun p hn => by cases p <;> simp_all [Part.Same, State.afterP1]

end Sys2Proof.Machine
end

