-- ==== Sys2Proof/Laws/Display.lean ====
section
/-! SUPPORT. What the two loops of the draw do (43_display.md R121): one pixel, one row of eight, n rows. The sizes of this
machine (8 columns of 64, at most 15 rows of 32) make every pixel visited at most once (R123). -/

namespace Sys2Proof.Machine

/-- The bit a row of eight pixels starting at column x0 puts on column col, in the loop's first m pixels. -/
def rowCovers (x0 : Col) (byte : Byte) (m : Nat) (col : Col) : Bool :=
  decide ((col - x0).toNat < m) && spriteBit byte (col - x0).toNat

/-- One pixel. -/
theorem getPixel_drawPixel (row row' : Row) (col col' : Col) (bit : Bool) (p : Screen × Bool) :
    getPixel (drawPixel row col bit p).1 row' col' =
      (getPixel p.1 row' col' != (decide (row' = row ∧ col' = col) && bit)) := by
  rw [drawPixel, getPixel_setPixel]
  by_cases h : row' = row ∧ col' = col
  · obtain ⟨rfl, rfl⟩ := h
    simp
  · simp [h]

theorem col_sub_eq_iff (col x0 : Col) (m : Nat) (hm : m < 64) :
    (col = x0 + BitVec.ofNat 6 m) ↔ (col - x0).toNat = m := by
  constructor
  · rintro rfl
    rw [BitVec.add_comm, BitVec.add_sub_cancel, BitVec.toNat_ofNat]
    omega
  · intro h
    apply BitVec.eq_of_toNat_eq
    have h1 := col.isLt
    have h2 := x0.isLt
    rw [BitVec.toNat_sub] at h
    rw [BitVec.toNat_add, BitVec.toNat_ofNat]
    omega

theorem row_sub_eq_iff (row y0 : Row) (m : Nat) (hm : m < 32) :
    (row = y0 + BitVec.ofNat 5 m) ↔ (row - y0).toNat = m := by
  constructor
  · rintro rfl
    rw [BitVec.add_comm, BitVec.add_sub_cancel, BitVec.toNat_ofNat]
    omega
  · intro h
    apply BitVec.eq_of_toNat_eq
    have h1 := row.isLt
    have h2 := y0.isLt
    rw [BitVec.toNat_sub] at h
    rw [BitVec.toNat_add, BitVec.toNat_ofNat]
    omega

/-- Below `n + 1` is below `n` or at `n`. -/
theorem covered_succ (d n : Nat) (g : Nat → Bool) :
    (decide (d < n + 1) && g d) = ((decide (d < n) && g d) || (decide (d = n) && g n)) := by
  rcases Nat.lt_trichotomy d n with h | h | h
  · simp [h, show d ≤ n by omega, show d ≠ n by omega]
  · simp [h]
  · simp [show ¬ d ≤ n by omega, show ¬ d < n by omega, show d ≠ n by omega]

/-- The first m pixels of a row: each pixel of that row is XORed with the bit that lands on it, and the collision gathers
the pixels that were on under a 1. -/
theorem drawRow_prefix (x0 : Col) (row : Row) (byte : Byte) (p : Screen × Bool) (m : Nat) (hm : m ≤ 8) :
    let q := (List.range m).foldl (fun q c => drawPixel row (x0 + BitVec.ofNat 6 c) (spriteBit byte c) q) p
    (∀ row' col, getPixel q.1 row' col =
      (getPixel p.1 row' col != (decide (row' = row) && rowCovers x0 byte m col))) ∧
    (q.2 = true ↔ p.2 = true ∨ ∃ col, getPixel p.1 row col = true ∧ rowCovers x0 byte m col = true) := by
  induction m with
  | zero => simp [rowCovers]
  | succ m ih =>
    obtain ⟨ih1, ih2⟩ := ih (by omega)
    simp only [List.range_succ, List.foldl_append, List.foldl_cons, List.foldl_nil]
    generalize (List.range m).foldl (fun q c => drawPixel row (x0 + BitVec.ofNat 6 c) (spriteBit byte c) q) p = q
      at ih1 ih2
    have hbit : ∀ col, rowCovers x0 byte (m + 1) col =
        (rowCovers x0 byte m col || (decide (col = x0 + BitVec.ofNat 6 m) && spriteBit byte m)) := by
      intro col
      have hd : decide (col = x0 + BitVec.ofNat 6 m) = decide ((col - x0).toNat = m) :=
        decide_eq_decide.mpr (col_sub_eq_iff col x0 m (by omega))
      rw [hd]
      exact covered_succ _ m (spriteBit byte)
    have hself : rowCovers x0 byte m (x0 + BitVec.ofNat 6 m) = false := by
      have := (col_sub_eq_iff (x0 + BitVec.ofNat 6 m) x0 m (by omega)).mp rfl
      rw [rowCovers, this]
      simp
    refine ⟨fun row' col => ?_, ?_⟩
    · rw [getPixel_drawPixel, ih1, hbit]
      by_cases hr : row' = row
      · by_cases hc : col = x0 + BitVec.ofNat 6 m
        · subst hc
          simp [hr, hself]
        · simp [hr, hc]
      · simp [hr]
    · have hold := ih1 row (x0 + BitVec.ofNat 6 m)
      rw [hself] at hold
      simp only [drawPixel, Bool.or_eq_true, ih2, hold, Bool.and_eq_true]
      constructor
      · rintro ((h | ⟨col, h1, h2⟩) | ⟨h1, h2⟩)
        · exact .inl h
        · exact .inr ⟨col, h1, by rw [hbit, h2]; rfl⟩
        · exact .inr ⟨x0 + BitVec.ofNat 6 m, by simpa using h1, by rw [hbit]; simp [h2]⟩
      · rintro (h | ⟨col, h1, h2⟩)
        · exact .inl (.inl h)
        · rw [hbit] at h2
          simp only [Bool.or_eq_true, Bool.and_eq_true, decide_eq_true_eq] at h2
          rcases h2 with h2 | ⟨rfl, h2⟩
          · exact .inl (.inr ⟨col, h1, h2⟩)
          · exact .inr ⟨by simpa using h1, h2⟩

/-- One row of the sprite. -/
theorem drawRow_spec (x0 : Col) (row : Row) (byte : Byte) (p : Screen × Bool) :
    (∀ row' col, getPixel (drawRow x0 row byte p).1 row' col =
      (getPixel p.1 row' col != (decide (row' = row) && rowCovers x0 byte 8 col))) ∧
    ((drawRow x0 row byte p).2 = true ↔
      p.2 = true ∨ ∃ col, getPixel p.1 row col = true ∧ rowCovers x0 byte 8 col = true) :=
  drawRow_prefix x0 row byte p 8 (le_refl 8)

/-- The bit n rows of the sprite put on a pixel. -/
def rowsCover (s : State) (x0 : Col) (y0 : Row) (n : Nat) (row : Row) (col : Col) : Bool :=
  decide ((row - y0).toNat < n) && rowCovers x0 (s.byteAt (ea s.i (row - y0).toNat)) 8 col

/-- n rows of the sprite, n at most 32: every pixel is XORed with the one bit that lands on it, and the collision is that of
some pixel that was on under a 1. -/
theorem drawSprite_spec (s : State) (x0 : Col) (y0 : Row) (n : Nat) (hn : n ≤ 32) :
    (∀ row col, getPixel (drawSprite s x0 y0 n).1 row col =
      (getPixel s.fb row col != rowsCover s x0 y0 n row col)) ∧
    ((drawSprite s x0 y0 n).2 = true ↔
      ∃ row col, getPixel s.fb row col = true ∧ rowsCover s x0 y0 n row col = true) := by
  induction n with
  | zero => simp [drawSprite, rowsCover]
  | succ n ih =>
    obtain ⟨ih1, ih2⟩ := ih (by omega)
    have hstep : drawSprite s x0 y0 (n + 1) =
        drawRow x0 (y0 + BitVec.ofNat 5 n) (s.byteAt (ea s.i n)) (drawSprite s x0 y0 n) := by
      simp only [drawSprite, List.range_succ, List.foldl_append, List.foldl_cons, List.foldl_nil]
    obtain ⟨h1, h2⟩ := drawRow_spec x0 (y0 + BitVec.ofNat 5 n) (s.byteAt (ea s.i n)) (drawSprite s x0 y0 n)
    have hbit : ∀ row col, rowsCover s x0 y0 (n + 1) row col =
        (rowsCover s x0 y0 n row col ||
          (decide (row = y0 + BitVec.ofNat 5 n) && rowCovers x0 (s.byteAt (ea s.i n)) 8 col)) := by
      intro row col
      have hd : decide (row = y0 + BitVec.ofNat 5 n) = decide ((row - y0).toNat = n) :=
        decide_eq_decide.mpr (row_sub_eq_iff row y0 n (by omega))
      rw [hd]
      exact covered_succ _ n (fun r => rowCovers x0 (s.byteAt (ea s.i r)) 8 col)
    have hself : ∀ col, rowsCover s x0 y0 n (y0 + BitVec.ofNat 5 n) col = false := by
      intro col
      have := (row_sub_eq_iff (y0 + BitVec.ofNat 5 n) y0 n (by omega)).mp rfl
      rw [rowsCover, this]
      simp
    rw [hstep]
    refine ⟨fun row col => ?_, ?_⟩
    · rw [h1, ih1, hbit]
      by_cases hr : row = y0 + BitVec.ofNat 5 n
      · subst hr
        simp [hself]
      · simp [hr]
    · rw [h2, ih2]
      constructor
      · rintro (⟨row, col, a, b⟩ | ⟨col, a, b⟩)
        · exact ⟨row, col, a, by rw [hbit, b]; rfl⟩
        · rw [ih1, hself] at a
          exact ⟨_, col, by simpa using a, by rw [hbit]; simp [b]⟩
      · rintro ⟨row, col, a, b⟩
        rw [hbit] at b
        simp only [Bool.or_eq_true, Bool.and_eq_true, decide_eq_true_eq] at b
        rcases b with b | ⟨rfl, b⟩
        · exact .inl ⟨row, col, a, b⟩
        · exact .inr ⟨col, by rw [ih1, hself]; simpa using a, b⟩

/-- The bit of the loops is the bit of the claims (Safety.lean). -/
theorem rowsCover_eq_spriteCovers (s : State) (bx bY : Byte) (n : Nat) (row : Row) (col : Col) :
    rowsCover s (startCol bx) (startRow bY) n row col = spriteCovers s bx.toNat bY.toNat n row col := by
  have hr : (row - startRow bY).toNat = (row.toNat + 32 - bY.toNat % 32) % 32 := by
    rw [BitVec.toNat_sub, startRow, BitVec.toNat_setWidth]
    omega
  have hc : (col - startCol bx).toNat = (col.toNat + 64 - bx.toNat % 64) % 64 := by
    rw [BitVec.toNat_sub, startCol, BitVec.toNat_setWidth]
    omega
  have hea : ∀ k, ea s.i k = BitVec.ofNat 12 (s.i.toNat + k) := fun k => by
    apply BitVec.eq_of_toNat_eq
    rw [toNat_ea, BitVec.toNat_ofNat]
  simp only [rowsCover, rowCovers, spriteCovers, spriteBit, hr, hc, hea, Bool.and_assoc]

end Sys2Proof.Machine
end

