-- ==== Sys2Proof/Tests/Slice0.lean ====
section
/-! SUPPORT. The model's own tests. Every expected value is from 95_test_vectors.md (sections named at each group) or is
worked by hand from the rule named; and for each obligation with hypotheses a witness that meets them. -/

namespace Sys2Proof.Tests

set_option Elab.async false

open Sys2Proof.Machine

/-- The instruction a word stands for, run on a state, ends in a next state with the given property. -/
def ran (w : Word) (s : State) (p : State → Bool) : Bool :=
  match decode w with
  | none => false
  | some i => match exec i s with
    | .next t => p t
    | .fault _ => false
    | .refused _ => false

/-- One step from a state ends in a next state with the given property. -/
def stepped (s : State) (p : State → Bool) : Bool :=
  match step s with
  | .next t => p t
  | .fault _ => false
  | .refused _ => false

/-- The reset state with registers set. -/
def regs (l : List (Nibble × Byte)) : State := l.foldl (fun s p => s.setReg p.1 p.2) State.reset

/-- A state with bytes stored from an address on. -/
def poked (s : State) (a : Addr) : List Byte → State
  | [] => s
  | b :: bs => poked (s.poke a b) (a + 1#12) bs

/-- The reset state with the parameters changed. -/
def withFont (m : FontWriteMode) (s : State) : State := { s with cfg := { s.cfg with fontWrite := m } }
def withKeys (m : KeyIndexMode) (s : State) : State := { s with cfg := { s.cfg with keyOor := m } }
def withDepth (d : Nat) (s : State) : State := { s with cfg := { s.cfg with stackDepth := some d } }

/-- The latch with one key down. -/
def held (k : Nibble) (s : State) : State := s.setKp (applyKey s.kp { key := k, pressed := true })

/-- The columns of a row that are on. -/
def lit (f : Screen) (row : Row) : List Nat :=
  (List.range 64).filter (fun c => getPixel f row (BitVec.ofNat 6 c))

/-! ### Well-formedness: each check accepts a good term and refuses an ill-formed one (30_encoding.md R53, R56, R50;
70_reset_and_hazards.md R181) -/

theorem test_legalWord_refuses : ([0x0000#16, 0x00E1#16, 0x5AB1#16, 0x8008#16, 0x8FFF#16, 0x912F#16, 0xE09F#16, 0xEFFF#16,
    0xF000#16, 0xF066#16, 0xFFFF#16].all fun w => !legalWord w) = true := by decide

theorem test_legalWord_accepts : ([0x00E0#16, 0x00EE#16, 0x5AB0#16, 0x800E#16, 0xE0A1#16, 0xF065#16].all legalWord) = true := by
  decide

theorem test_legalInstrBytes_refuses : (legalInstrBytes [] || legalInstrBytes [0x12#8] ||
    legalInstrBytes [0x12#8, 0x06#8, 0x00#8] || legalInstrBytes [0x50#8, 0x01#8]) = false := by decide

theorem test_legalInstrBytes_accepts : legalInstrBytes [0x12#8, 0x06#8] = true := by decide

theorem test_legalImage_refuses : legalImage (List.replicate 3585 0#8) = false := by
  rw [legalImage, List.length_replicate]
  decide

theorem test_legalImage_accepts : legalImage (List.replicate 3584 0#8) = true := by
  rw [legalImage, List.length_replicate]
  decide

/-! ### Decoding: a word of every constructor, its bits written out from the pattern of 30_encoding.md R53 -/

theorem test_decode_Z : decode 0b0000000011100000#16 = some .cls ∧ decode 0b0000000011101110#16 = some .ret := by decide

theorem test_decode_NNN : decode 0b0001101010111100#16 = some (.jp 0xABC#12) ∧
    decode 0b0010111111111110#16 = some (.call 0xFFE#12) ∧ decode 0b1010000100100011#16 = some (.ldI 0x123#12) ∧
    decode 0b1011001101000101#16 = some (.jpV0 0x345#12) := by decide

theorem test_decode_XNN : decode 0b0011101001111111#16 = some (.seImm 10#4 0x7F#8) ∧
    decode 0b0100111100000000#16 = some (.sneImm 15#4 0x00#8) ∧ decode 0b0110110000101010#16 = some (.ldImm 12#4 0x2A#8) ∧
    decode 0b0111000000000001#16 = some (.addImm 0#4 0x01#8) ∧ decode 0b1100001100001111#16 = some (.rnd 3#4 0x0F#8) := by
  decide

theorem test_decode_XY_skips : decode 0b0101101010110000#16 = some (.seReg 10#4 11#4) ∧
    decode 0b1001000100100000#16 = some (.sneReg 1#4 2#4) := by decide

theorem test_decode_family8 : decode 0b1000000100100000#16 = some (.ldReg 1#4 2#4) ∧
    decode 0b1000000100100001#16 = some (.orReg 1#4 2#4) ∧ decode 0b1000000100100010#16 = some (.andReg 1#4 2#4) ∧
    decode 0b1000000100100011#16 = some (.xorReg 1#4 2#4) ∧ decode 0b1000000100100100#16 = some (.addReg 1#4 2#4) ∧
    decode 0b1000000100100101#16 = some (.subReg 1#4 2#4) ∧ decode 0b1000101010110110#16 = some (.shr 10#4 11#4) ∧
    decode 0b1000000100100111#16 = some (.subn 1#4 2#4) ∧ decode 0b1000111011111110#16 = some (.shl 14#4 15#4) := by decide

theorem test_decode_XYN : decode 0b1101000100100101#16 = some (.drw 1#4 2#4 5#4) := by decide

theorem test_decode_familyE : decode 0b1110010110011110#16 = some (.skp 5#4) ∧
    decode 0b1110010110100001#16 = some (.sknp 5#4) := by decide

theorem test_decode_familyF : decode 0b1111001000000111#16 = some (.ldVxDt 2#4) ∧
    decode 0b1111001000001010#16 = some (.ldVxK 2#4) ∧ decode 0b1111001000010101#16 = some (.ldDtVx 2#4) ∧
    decode 0b1111001000011000#16 = some (.ldStVx 2#4) ∧ decode 0b1111001000011110#16 = some (.addI 2#4) ∧
    decode 0b1111001000101001#16 = some (.ldF 2#4) ∧ decode 0b1111001000110011#16 = some (.ldB 2#4) ∧
    decode 0b1111111101010101#16 = some (.ldMemVx 15#4) ∧ decode 0b1111111101100101#16 = some (.ldVxMem 15#4) := by decide

/-- The illegal words of section 2.1. -/
theorem test_decode_illegal : ([0x0000#16, 0x0001#16, 0x00E1#16, 0x00ED#16, 0x00EF#16, 0x00FF#16, 0x0123#16, 0x0FFF#16,
    0x5001#16, 0x5AB1#16, 0x5ABF#16, 0x8008#16, 0x8009#16, 0x800A#16, 0x800B#16, 0x800C#16, 0x800D#16, 0x800F#16,
    0x8128#16, 0x9001#16, 0x912F#16, 0xE000#16, 0xE09D#16, 0xE09F#16, 0xE0A0#16, 0xE0A2#16, 0xE19F#16, 0xEFFF#16].all
      fun w => (decode w).isNone) = true := by decide

theorem test_decode_illegalF : ([0xF000#16, 0xF006#16, 0xF008#16, 0xF00B#16, 0xF014#16, 0xF016#16, 0xF017#16, 0xF019#16,
    0xF01D#16, 0xF01F#16, 0xF028#16, 0xF02A#16, 0xF030#16, 0xF034#16, 0xF054#16, 0xF056#16, 0xF064#16, 0xF066#16, 0xF075#16,
    0xF085#16, 0xF0FF#16, 0xFFFF#16].all fun w => (decode w).isNone) = true := by decide

/-- 20_memory.md R36: the byte at the lower address is the high byte. -/
theorem test_decodeBytes : decodeBytes [0x12#8, 0x06#8, 0x60#8] = .ok (.jp 0x206#12, [0x60#8]) := by rfl

theorem test_decodeBytes_rejects : decodeBytes [0x12#8] = .error .truncated ∧
    decodeBytes [0x50#8, 0x01#8] = .error (.illegalOpcode 0x5001#16) := ⟨rfl, rfl⟩

theorem test_decodeTableWord : decodeTableWord 16 0x8124 = some (.addReg 1#4 2#4) := by decide

/-! ### Control transfer (section 2.2) -/

theorem test_jp : ran 0x1301#16 State.reset (fun t => t.pc == 0x301#12) = true := by decide +kernel

theorem test_call : ran 0x2300#16 (((State.reset.pushFrame 0x204#12).pushFrame 0x300#12).setPc 0xFFE#12)
    (fun t => t.frame 2 == some 0xFFE#12 && t.sp == 3 && t.pc == 0x300#12) = true := by decide +kernel

/-- Section 2.8. -/
theorem test_call_full : ran 0x2300#16 (((withDepth 2 State.reset).setStack [0x204#12, 0x206#12]).setPc 0x20A#12)
    (fun t => t.rs == .fatal && t.fcause == 2#3 && t.finfo == 0x020A#16 && t.sp == 2 && t.pc == 0x20A#12) = true := by
  decide +kernel

theorem test_ret : ran 0x00EE#16 (State.reset.setStack [0xFFE#12, 0x300#12, 0x204#12])
    (fun t => t.sp == 2 && t.pc == 0x000#12) = true := by decide +kernel

theorem test_ret_empty : ran 0x00EE#16 (State.reset.setPc 0x208#12) (fun t => t.rs == .halted && t.pc == 0x208#12) = true := by
  decide +kernel

theorem test_jpV0_wraps : ran 0xBFFF#16 (regs [(0#4, 0xFF#8)]) (fun t => t.pc == 0x0FE#12) = true := by decide +kernel

theorem test_jpV0_ignores_x : ran 0xB204#16 (regs [(2#4, 9#8)]) (fun t => t.pc == 0x204#12) = true := by decide +kernel

theorem test_seImm_skips : ran 0x3F01#16 (regs [(15#4, 1#8)]) (fun t => t.pc == 0x204#12) = true := by decide +kernel

theorem test_seImm_wraps : ran 0x3000#16 (State.reset.setPc 0xFFE#12) (fun t => t.pc == 0x002#12) = true := by decide +kernel

theorem test_sneImm_equal : ran 0x4007#16 (regs [(0#4, 7#8)]) (fun t => t.pc == 0x202#12) = true := by decide +kernel

theorem test_sneImm_skips : ran 0x4008#16 (regs [(0#4, 7#8)]) (fun t => t.pc == 0x204#12) = true := by decide +kernel

theorem test_seReg_skips : ran 0x5230#16 (regs [(2#4, 0x41#8), (3#4, 0x41#8)]) (fun t => t.pc == 0x204#12) = true := by
  decide +kernel

theorem test_seReg_differs : ran 0x5230#16 (regs [(2#4, 0x41#8), (3#4, 0x42#8)]) (fun t => t.pc == 0x202#12) = true := by
  decide +kernel

theorem test_sneReg_equal : ran 0x9010#16 State.reset (fun t => t.pc == 0x202#12) = true := by decide +kernel

theorem test_sneReg_skips : ran 0x9010#16 (regs [(1#4, 1#8)]) (fun t => t.pc == 0x204#12) = true := by decide +kernel

/-! ### Load, arithmetic, logic, shift, random (section 2.3) -/

theorem test_ldImm : ran 0x6F00#16 (regs [(15#4, 1#8)]) (fun t => t.reg 15#4 == 0#8 && t.pc == 0x202#12) = true := by
  decide +kernel

theorem test_ldImm_wraps_pc : ran 0x6000#16 (State.reset.setPc 0xFFE#12) (fun t => t.pc == 0x000#12) = true := by
  decide +kernel

theorem test_addImm_no_flag : ran 0x7001#16 (regs [(0#4, 0xFF#8)]) (fun t => t.reg 0#4 == 0#8 && t.reg 15#4 == 0#8) = true := by
  decide +kernel

theorem test_ldReg : ran 0x8AF0#16 (regs [(15#4, 1#8)]) (fun t => t.reg 10#4 == 1#8) = true := by decide +kernel

theorem test_orReg : ran 0x8011#16 (regs [(0#4, 0x0F#8), (1#4, 0xF0#8), (15#4, 1#8)])
    (fun t => t.reg 0#4 == 0xFF#8 && t.reg 15#4 == 1#8) = true := by decide +kernel

theorem test_andReg : ran 0x8012#16 (regs [(0#4, 0x3C#8), (1#4, 0x0F#8), (15#4, 1#8)])
    (fun t => t.reg 0#4 == 0x0C#8 && t.reg 15#4 == 1#8) = true := by decide +kernel

theorem test_xorReg : ran 0x8013#16 (regs [(0#4, 0xFF#8), (1#4, 0x0F#8), (15#4, 1#8)])
    (fun t => t.reg 0#4 == 0xF0#8 && t.reg 15#4 == 1#8) = true := by decide +kernel

theorem test_addReg_carry : ran 0x8014#16 (regs [(0#4, 0xC8#8), (1#4, 0x64#8)])
    (fun t => t.reg 0#4 == 0x2C#8 && t.reg 15#4 == 1#8) = true := by decide +kernel

theorem test_addReg_into_VF : ran 0x8F34#16 (regs [(15#4, 0x10#8), (3#4, 0x20#8)]) (fun t => t.reg 15#4 == 0#8) = true := by
  decide +kernel

theorem test_subReg_equal : ran 0x8015#16 (regs [(0#4, 7#8), (1#4, 7#8), (15#4, 1#8)])
    (fun t => t.reg 0#4 == 0#8 && t.reg 15#4 == 0#8) = true := by decide +kernel

theorem test_subReg_from_VF : ran 0x8F35#16 (regs [(15#4, 9#8), (3#4, 4#8)]) (fun t => t.reg 15#4 == 0xFD#8) = true := by
  decide +kernel

theorem test_shr_ignores_y : ran 0x8076#16 (regs [(0#4, 3#8), (7#4, 0xFF#8)])
    (fun t => t.reg 0#4 == 1#8 && t.reg 15#4 == 1#8 && t.reg 7#4 == 0xFF#8) = true := by decide +kernel

theorem test_shr_VF : ran 0x8F06#16 (regs [(15#4, 0xFF#8)]) (fun t => t.reg 15#4 == 0#8) = true := by decide +kernel

theorem test_subn_borrow : ran 0x8017#16 (regs [(0#4, 5#8), (1#4, 3#8)])
    (fun t => t.reg 0#4 == 0xFE#8 && t.reg 15#4 == 0#8) = true := by decide +kernel

theorem test_subn_y_is_VF : ran 0x83F7#16 (regs [(3#4, 5#8), (15#4, 9#8)])
    (fun t => t.reg 3#4 == 0xFC#8 && t.reg 15#4 == 1#8) = true := by decide +kernel

theorem test_shl_ignores_y : ran 0x809E#16 (regs [(0#4, 0x81#8), (9#4, 0x55#8)])
    (fun t => t.reg 0#4 == 0x02#8 && t.reg 15#4 == 1#8 && t.reg 9#4 == 0x55#8) = true := by decide +kernel

theorem test_shl_VF : ran 0x8F0E#16 (regs [(15#4, 0x81#8)]) (fun t => t.reg 15#4 == 2#8) = true := by decide +kernel

/-- The free value is whatever the environment answers; here it is taken to be 0xA7. -/
theorem test_rnd (h : Config.rndByte 0 = 0xA7#8) :
    ∃ t, exec (.rnd 3#4 0x0F#8) State.reset = .next t ∧ t.reg 3#4 = 0x07#8 ∧ t.rndIndex = 1 := by
  refine ⟨_, rfl, ?_, rfl⟩
  show (Config.rndByte 0 &&& 0x0F#8) = 0x07#8
  rw [h]
  decide

/-! ### Index register and memory (section 2.4) -/

theorem test_ldI : ran 0xAFFF#16 State.reset (fun t => t.i == 0x0FFF#16) = true := by decide +kernel

theorem test_addI_wraps : ran 0xF01E#16 ((regs [(0#4, 2#8)]).setI 0xFFFF#16) (fun t => t.i == 0x0001#16) = true := by
  decide +kernel

theorem test_addI_no_flag : ran 0xF01E#16 ((regs [(0#4, 1#8)]).setI 0x0FFF#16)
    (fun t => t.i == 0x1000#16 && t.reg 15#4 == 0#8) = true := by decide +kernel

theorem test_ldF : ran 0xF029#16 (regs [(0#4, 0xFF#8)]) (fun t => t.i == 0x4FB#16) = true := by decide +kernel

theorem test_ldB_wraps_into_font : ran 0xF033#16 ((regs [(0#4, 123#8)]).setI 0xFFE#16)
    (fun t => t.byteAt 0xFFE#12 == 1#8 && t.byteAt 0xFFF#12 == 2#8 && t.byteAt 0#12 == 3#8 && t.i == 0xFFE#16) = true := by
  decide +kernel

theorem test_ldB_ignore_mode : ran 0xF033#16 (withFont .ignore ((regs [(0#4, 123#8)]).setI 0xFFE#16))
    (fun t => t.byteAt 0xFFE#12 == 1#8 && t.byteAt 0xFFF#12 == 2#8 && t.byteAt 0#12 == 0xF0#8) = true := by decide +kernel

theorem test_ldMemVx : ran 0xF155#16 ((regs [(0#4, 15#8), (2#4, 7#8)]).setI 0x400#16)
    (fun t => t.byteAt 0x400#12 == 15#8 && t.byteAt 0x401#12 == 0#8 && t.byteAt 0x402#12 == 0#8 && t.i == 0x400#16) = true := by
  decide +kernel

/-- Section 2.8. -/
theorem test_ldMemVx_fault_mode : ran 0xF255#16 (withFont .fault ((regs [(0#4, 1#8), (1#4, 2#8), (2#4, 3#8)]).setI 0x04E#16))
    (fun t => t.rs == .fatal && t.fcause == 3#3 && t.finfo == 0x004E#16 && t.byteAt 0x04E#12 == 0x80#8 &&
      t.byteAt 0x050#12 == 0#8 && t.pc == 0x200#12) = true := by decide +kernel

theorem test_ldVxMem_font : ran 0xF265#16 (State.reset.setI 0#16)
    (fun t => t.reg 0#4 == 0xF0#8 && t.reg 1#4 == 0x90#8 && t.reg 2#4 == 0x90#8 && t.reg 3#4 == 0#8 && t.i == 0#16) = true := by
  decide +kernel

theorem test_ldVxMem_wraps : ran 0xF165#16 ((poked State.reset 0xFFF#12 [0xAA#8]).setI 0xFFF#16)
    (fun t => t.reg 0#4 == 0xAA#8 && t.reg 1#4 == 0xF0#8) = true := by decide +kernel

/-! ### Display (section 2.5) -/

theorem test_cls : ran 0x00E0#16 (State.reset.setFb (setPixel blankScreen 31#5 63#6 true))
    (fun t => getPixel t.fb 31#5 63#6 == false) = true := by decide +kernel

theorem test_drw_wraps : ran 0xD012#16 ((poked (regs [(0#4, 62#8), (1#4, 31#8)]) 0x300#12 [0xFF#8, 0x81#8]).setI 0x300#16)
    (fun t => lit t.fb 31#5 == [0, 1, 2, 3, 4, 5, 62, 63] && lit t.fb 0#5 == [5, 62] && t.reg 15#4 == 0#8) = true := by
  decide +kernel

theorem test_drw_collision : ran 0xDF11#16
    (((poked (regs [(15#4, 3#8)]) 0x312#12 [0xC0#8]).setI 0x312#16).setFb (setPixel blankScreen 0#5 3#6 true))
    (fun t => lit t.fb 0#5 == [4] && t.reg 15#4 == 1#8) = true := by decide +kernel

/-! ### Keypad (section 2.6) -/

theorem test_skp_drains : ran 0xE09E#16 ((regs [(0#4, 7#8)]).setKq [⟨7#4, true⟩, ⟨7#4, false⟩])
    (fun t => t.kq == [] && keyDown t.kp 7#4 == false && t.pc == 0x202#12) = true := by decide +kernel

theorem test_skp_fault_mode : ran 0xE09E#16 ((regs [(0#4, 0x10#8)]).setKq [⟨1#4, true⟩])
    (fun t => t.rs == .fatal && t.fcause == 4#3 && t.finfo == 0x0010#16 && t.pc == 0x200#12 && t.kq == [⟨1#4, true⟩] &&
      keyDown t.kp 1#4 == false) = true := by decide +kernel

theorem test_skp_mask_mode : ran 0xE09E#16 (withKeys .mask (held 7#4 (regs [(0#4, 0x17#8)]))) (fun t => t.pc == 0x204#12) = true := by
  decide +kernel

theorem test_sknp_drains : ran 0xE0A1#16 ((held 7#4 (regs [(0#4, 7#8)])).setKq [⟨7#4, false⟩])
    (fun t => t.kq == [] && keyDown t.kp 7#4 == false && t.pc == 0x204#12) = true := by decide +kernel

theorem test_sknp_released_mode : ran 0xE0A1#16 (withKeys .released (held 7#4 (regs [(0#4, 0x17#8)])))
    (fun t => t.pc == 0x204#12) = true := by decide +kernel

theorem test_ldVxK_queued : ran 0xF00A#16 ((held 3#4 State.reset).setKq [⟨3#4, false⟩, ⟨7#4, true⟩, ⟨2#4, true⟩])
    (fun t => keyDown t.kp 3#4 == false && keyDown t.kp 7#4 && t.reg 0#4 == 7#8 && t.kq == [⟨2#4, true⟩] &&
      t.rs == .running && t.pc == 0x202#12) = true := by decide +kernel

theorem test_ldVxK_blocks : ran 0xF00A#16 (held 4#4 State.reset)
    (fun t => t.rs == .waitKey && t.pc == 0x200#12 && keyDown t.kp 4#4 && t.reg 0#4 == 0#8) = true := by decide +kernel

/-! ### Timers and audio (section 2.7) -/

theorem test_ldVxDt : stepped ((State.reset.setDt 3#8).withFetchWord 16 0xF107)
    (fun t => t.dt == 2#8 && t.reg 1#4 == 2#8) = true := by decide +kernel

theorem test_ldDtVx : stepped (((regs [(0#4, 3#8)]).setDt 7#8).withFetchWord 16 0xF015) (fun t => t.dt == 3#8) = true := by
  decide +kernel

/-- The time the environment answers is taken to be 1000. -/
theorem test_ldStVx (h : Config.timeStep 0 = 1000) :
    ∃ t, exec (.ldStVx 0#4) (regs [(0#4, 5#8)]) = .next t ∧ t.st = 5#8 ∧ t.sst = 1000 := by
  refine ⟨_, rfl, by decide, ?_⟩
  show 0 + Config.timeStep 0 = 1000
  rw [h]

/-- `ST = 5` and paused: the play strobe. -/
theorem test_audio_play : (State.reset.setSt 5#8).audio.ap = true ∧ (State.reset.setSt 5#8).audio.strobes.play = true := by
  decide

/-- `ST = 0`, playing, SST = 1000, the time 1050: the pause strobe. -/
theorem test_audio_pause (h : Config.timeStep 0 = 1050) :
    ((State.reset.setAp true).setSst 1000).audio.ap = false ∧
      ((State.reset.setAp true).setSst 1000).audio.strobes.pause = true := by
  rcases State.audio_cases ((State.reset.setAp true).setSst 1000) with
    ⟨h', -, -⟩ | ⟨h', -, -⟩ | ⟨-, h', -⟩ | ⟨-, -, h', -⟩ | ⟨-, -, -, h'⟩
  · exact absurd h' (by decide)
  · exact absurd h' (by decide)
  · exact absurd h' (by decide)
  · have : (0 : Nat) + Config.timeStep 0 < 1000 + 50 := h'
    omega
  · rw [h']
    exact ⟨rfl, rfl⟩

/-- `ST = 0`, playing, SST = 1000, the time 1049: it plays on. -/
theorem test_audio_holds (h : Config.timeStep 0 = 1049) : ((State.reset.setAp true).setSst 1000).audio.ap = true := by
  rcases State.audio_cases ((State.reset.setAp true).setSst 1000) with
    ⟨h', -, -⟩ | ⟨h', -, -⟩ | ⟨-, h', -⟩ | ⟨-, -, -, h'⟩ | ⟨-, -, h', -⟩
  · exact absurd h' (by decide)
  · exact absurd h' (by decide)
  · exact absurd h' (by decide)
  · rw [h']
    rfl
  · have : (1000 : Nat) + 50 ≤ 0 + Config.timeStep 0 := h'
    omega

/-! ### The step, faults and reset (section 2.8; P9; 10_state.md R25) -/

/-- The reset state with nothing placed runs the word 0x0000 (P1 has run, no render strobe). -/
theorem test_step_from_reset : stepped ((State.reset.setDt 200#8).setSt 100#8)
    (fun t => t.rs == .fatal && t.fcause == 1#3 && t.finfo == 0#16 && t.pc == 0x200#12 && t.dt == 199#8 && t.st == 99#8 &&
      t.strobes == Strobes.none) = true := by decide +kernel

theorem test_step_illegal : stepped ((State.reset.setPc 0x204#12).withFetchWord 16 0x5011)
    (fun t => t.rs == .fatal && t.finfo == 0x5011#16 && t.pc == 0x204#12) = true := by decide +kernel

/-- 20_memory.md R36 at the top of memory: 0x60F0 is `LD V0, 0xF0`, its second byte the font's first. -/
theorem test_step_fetch_wraps : stepped (poked (State.reset.setPc 0xFFF#12) 0xFFF#12 [0x60#8])
    (fun t => t.reg 0#4 == 0xF0#8 && t.pc == 0x001#12 && t.strobes.render) = true := by decide +kernel

/-- P9: the press ends the wait, no timer moves, the render strobe of the same cycle follows. -/
theorem test_step_press_ends_wait :
    stepped (((poked ((State.reset.setDt 8#8).setRs .waitKey) 0x200#12 [0xF3#8, 0x0A#8]).setScript [.key ⟨12#4, true⟩]))
      (fun t => t.rs == .running && t.reg 3#4 == 12#8 && keyDown t.kp 12#4 && t.dt == 8#8 && t.pc == 0x202#12 &&
        t.strobes.render) = true := by decide +kernel

/-- 40_cycle_and_control.md R70: P5 of the resumed cycle runs too; ST = 2 with the audio off plays. -/
theorem test_step_press_plays : stepped ((poked ((State.reset.setSt 2#8).setRs .waitKey) 0x200#12 [0xF3#8, 0x0A#8]).setScript
    [.key ⟨12#4, true⟩]) (fun t => t.ap && t.strobes.play && t.st == 2#8) = true := by decide +kernel

/-- P9: a release does not. -/
theorem test_step_release_waits :
    stepped (((poked ((State.reset.setDt 8#8).setRs .waitKey) 0x200#12 [0xF3#8, 0x0A#8]).setScript [.key ⟨5#4, false⟩]))
      (fun t => t.rs == .waitKey && t.kq == [] && t.dt == 8#8 && t.pc == 0x200#12 && t.strobes == Strobes.none) = true := by
  decide +kernel

/-- 60_exceptions.md R165: nothing but reset leaves HALTED. -/
theorem test_step_halted : stepped ((State.reset.setRs .halted).setDt 9#8)
    (fun t => t.rs == .halted && t.dt == 9#8 && t.strobes == Strobes.none) = true := by decide +kernel

/-- 44_keypad_and_timers.md R137: a tick that brings no key leaves the wait as it was, and no timer moves. -/
theorem test_step_tick_waits :
    stepped (((poked ((State.reset.setDt 8#8).setRs .waitKey) 0x200#12 [0xF3#8, 0x0A#8]).setScript [.tick]))
      (fun t => t.rs == .waitKey && t.dt == 8#8 && t.pc == 0x200#12 && t.script == [] && t.tickIndex == 1) = true := by
  decide +kernel

/-- 44_keypad_and_timers.md R135, R136: a tick that finds a release, a press and another press queued takes the first press,
leaves the other, and renders. -/
theorem test_step_tick_takes_press :
    stepped (((poked ((State.reset.setDt 8#8).setRs .waitKey) 0x200#12 [0xF3#8, 0x0A#8]).setScript [.tick]).setKq
      [⟨12#4, false⟩, ⟨7#4, true⟩, ⟨1#4, true⟩])
      (fun t => t.rs == .running && t.reg 3#4 == 7#8 && t.kq == [⟨1#4, true⟩] && keyDown t.kp 7#4 && !keyDown t.kp 1#4 &&
        t.dt == 8#8 && t.pc == 0x202#12 && t.strobes.render) = true := by
  decide +kernel

/-- The reset state is the reset with the empty image and the default parameters. -/
theorem test_boot_empty : State.boot Params.default [] = some State.reset := by decide +kernel

/-- 20_memory.md R33: the image stands at 0x200, the font at 0. -/
theorem test_boot_image : ((State.boot Params.default [0x12#8, 0x06#8]).map
    (fun s => [s.byteAt 0x000#12, s.byteAt 0x04F#12, s.byteAt 0x1FF#12, s.byteAt 0x200#12, s.byteAt 0x201#12, s.byteAt 0x202#12])) =
      some [0xF0#8, 0x80#8, 0x00#8, 0x12#8, 0x06#8, 0x00#8] := by decide +kernel

/-! ### Witnesses: for each obligation with hypotheses, a concrete state and operands that meet them all; where it has
several clauses, one for each clause, at the ends of its range -/

theorem witness_EncodeOfDecodeIsTheWord : decode 0x8AB6#16 = some (.shr 10#4 11#4) := by decide

theorem witness_DecodeAcceptsExactlyTheWordsOfOneRow : ∃ r ∈ opcodeRows, r.selects 0xE59E#16 = true :=
  ⟨⟨"SKP_Vx", 0xF0FF#16, 0xE09E#16⟩, by decide, by decide⟩

/-- The reset state with one instruction placed, a tick next. -/
def placed (w : Nat) : State := State.reset.withFetchWord 16 w

theorem placed_ready (w : Nat) : (placed w).rs = .running ∧ (placed w).ticksNext := ⟨rfl, .inr ⟨_, rfl⟩⟩

theorem witness_StepRunsTheDecodedInstruction_goes_on :
    decode (wordOfBytes ((placed 0x8014).byteAt (placed 0x8014).pc) ((placed 0x8014).byteAt ((placed 0x8014).pc + 1#12))) =
      some (.addReg 0#4 1#4) ∧ ran 0x8014#16 (placed 0x8014).afterP1 (fun t => t.rs == .running) = true := by decide +kernel

theorem witness_StepRunsTheDecodedInstruction_ends :
    decode (wordOfBytes ((placed 0x00EE).byteAt (placed 0x00EE).pc) ((placed 0x00EE).byteAt ((placed 0x00EE).pc + 1#12))) =
      some .ret ∧ ran 0x00EE#16 (placed 0x00EE).afterP1 (fun t => t.rs == .halted) = true := by decide +kernel

theorem witness_FetchIsBigEndianAndWraps : (0x000#12).toNat = ((State.reset.setPc 0xFFF#12).pc.toNat + 1) % 4096 := by decide

/-- Free key events (nothing scripted), and a scripted tick. -/
theorem witness_TickFindsTheKeysThatCameBeforeIt :
    (State.reset.ticksNext ∧ State.reset.script = []) ∧
    ((State.reset.setScript [.tick, .tick]).ticksNext ∧ (State.reset.setScript [.tick, .tick]).script ≠ []) :=
  ⟨⟨.inl rfl, rfl⟩, .inr ⟨_, rfl⟩, by decide⟩

/-- A running cycle of an instruction that writes neither timer, with the timers at 0 and at 1. -/
theorem witness_TimersFallByOnePerCycleAndStopAtZero_running :
    (((placed 0x6000).setDt 1#8).setSt 0#8).rs = .running ∧ (((placed 0x6000).setDt 1#8).setSt 0#8).ticksNext ∧
    (∀ x, decode (((placed 0x6000).setDt 1#8).setSt 0#8).fetch ≠ some (.ldDtVx x)) ∧
    (∀ x, decode (((placed 0x6000).setDt 1#8).setSt 0#8).fetch ≠ some (.ldStVx x)) := by
  have h : decode (((placed 0x6000).setDt 1#8).setSt 0#8).fetch = some (.ldImm 0#4 0#8) := by decide +kernel
  refine ⟨rfl, .inr ⟨_, rfl⟩, ?_, ?_⟩ <;> rw [h] <;> simp

theorem witness_TimersFallByOnePerCycleAndStopAtZero_stopped :
    ((State.reset.setRs .halted).setDt 1#8).ticksNext ∧ ((State.reset.setRs .halted).setDt 1#8).rs ≠ .running :=
  ⟨.inl rfl, by decide⟩

theorem witness_IllegalWordEntersFatal :
    State.reset.rs = .running ∧ State.reset.ticksNext ∧ decode State.reset.fetch = none :=
  ⟨rfl, .inl rfl, by decide +kernel⟩

/-- Halted and fatal with nothing scripted (what keys come is free), and a wait whose tick is scripted and brings no key. -/
theorem witness_TickOutsideRunningChangesNothing :
    ((State.reset.setRs .halted).ticksNext ∧ (State.reset.setRs .halted).rs = .halted) ∧
    ((State.reset.setRs .fatal).ticksNext ∧ (State.reset.setRs .fatal).rs = .fatal) ∧
    ((placed 0xF00A).setRs .waitKey).ticksNext ∧ ((placed 0xF00A).setRs .waitKey).rs = .waitKey ∧
      ((placed 0xF00A).setRs .waitKey).atTick.kq = [] :=
  ⟨⟨.inl rfl, rfl⟩, ⟨.inl rfl, rfl⟩, .inr ⟨_, rfl⟩, rfl, rfl⟩

/-- A machine blocked at `F50A` with the given events queued, the tick scripted. -/
def waiting (q : List KeyEvent) : State := ((placed 0xF50A).setRs .waitKey).setKq q

theorem waiting_meets (q : List KeyEvent) : (waiting q).rs = .waitKey ∧ decode (waiting q).fetch = some (.ldVxK 5#4) ∧
    (waiting q).ticksNext ∧ (waiting q).kq ++ (waiting q).arrivals = q := by
  have h : decode ((placed 0xF50A).setRs .waitKey).fetch = some (.ldVxK 5#4) := by decide +kernel
  exact ⟨rfl, h, .inr ⟨_, rfl⟩, List.append_nil q⟩

/-- A press behind a release, with an event behind it; releases only; nothing; and a wait whose keys are free. -/
theorem witness_WaitEndsExactlyWhenAPressComes :
    ((waiting [⟨3#4, false⟩, ⟨15#4, true⟩, ⟨0#4, true⟩]).rs = .waitKey ∧
      (waiting [⟨3#4, false⟩, ⟨15#4, true⟩, ⟨0#4, true⟩]).kq ++ (waiting [⟨3#4, false⟩, ⟨15#4, true⟩, ⟨0#4, true⟩]).arrivals =
        [⟨3#4, false⟩] ++ { key := 15#4, pressed := true } :: [⟨0#4, true⟩] ∧
      ∀ e ∈ [KeyEvent.mk 3#4 false], e.pressed = false) ∧
    (∀ e ∈ (waiting [⟨3#4, false⟩]).kq ++ (waiting [⟨3#4, false⟩]).arrivals, e.pressed = false) ∧
    (∀ e ∈ (waiting []).kq ++ (waiting []).arrivals, e.pressed = false) ∧
    (((waiting []).setScript []).fetch = (waiting []).fetch ∧ ((waiting []).setScript []).ticksNext) :=
  ⟨⟨rfl, (waiting_meets _).2.2.2, by decide⟩, by rw [(waiting_meets _).2.2.2]; decide,
    by rw [(waiting_meets _).2.2.2]; decide, rfl, .inl rfl⟩

theorem witness_KeyEventIsQueuedInOrder :
    (State.reset.setScript [.key ⟨15#4, true⟩]).script = .key ⟨15#4, true⟩ :: [] ∧
    (State.reset.setScript [.key ⟨15#4, true⟩]).rs ≠ .waitKey := ⟨rfl, by decide⟩

/-- A machine blocked at `F50A` with one key event next. -/
def blocked (e : KeyEvent) : State := ((placed 0xF50A).setRs .waitKey).setScript [.key e]

theorem blocked_meets (e : KeyEvent) : (blocked e).rs = .waitKey ∧ (blocked e).kq = [] ∧
    decode (blocked e).fetch = some (.ldVxK 5#4) ∧ (blocked e).script = .key e :: [] := by
  have h : decode ((placed 0xF50A).setRs .waitKey).fetch = some (.ldVxK 5#4) := by decide +kernel
  exact ⟨rfl, rfl, h, rfl⟩

theorem witness_PressEndsTheWait : (blocked ⟨4#4, true⟩).rs = .waitKey ∧ (blocked ⟨4#4, true⟩).kq = [] ∧
    decode (blocked ⟨4#4, true⟩).fetch = some (.ldVxK 5#4) ∧ (blocked ⟨4#4, true⟩).script = .key ⟨4#4, true⟩ :: [] :=
  blocked_meets _

/-- The audio clauses of a resumed cycle: the sound timer at 1 and running; at 0 with the audio off; at 0 with
it on. -/
theorem witness_PressEndsTheWait_audio :
    0 < ((blocked ⟨4#4, true⟩).setSt 1#8).st.toNat ∧
    ((blocked ⟨4#4, true⟩).st.toNat = 0 ∧ (blocked ⟨4#4, true⟩).ap = false) ∧
    (((blocked ⟨4#4, true⟩).setAp true).st.toNat = 0 ∧ ((blocked ⟨4#4, true⟩).setAp true).ap = true) := by decide

/-- A blocked machine with the audio on, SST and the clock as given. -/
def blockedPlaying (sst clock : Nat) : State := { ((blocked ⟨4#4, true⟩).setAp true).setSst sst with clock := clock }

theorem witness_PressEndsTheWait_pause :
    (blockedPlaying 0 50).sst + Config.holdMs ≤ (blockedPlaying 0 50).clock + Config.timeStep (blockedPlaying 0 50).nowIndex := by
  show 0 + 50 ≤ 50 + Config.timeStep 0
  omega

theorem witness_PressEndsTheWait_hold :
    (blockedPlaying (Config.timeStep 0) 0).clock + Config.timeStep (blockedPlaying (Config.timeStep 0) 0).nowIndex <
      (blockedPlaying (Config.timeStep 0) 0).sst + Config.holdMs := by
  show 0 + Config.timeStep 0 < Config.timeStep 0 + 50
  omega

theorem witness_ReleaseKeepsTheWait : (blocked ⟨4#4, false⟩).rs = .waitKey ∧ (blocked ⟨4#4, false⟩).kq = [] ∧
    decode (blocked ⟨4#4, false⟩).fetch = some (.ldVxK 5#4) ∧ (blocked ⟨4#4, false⟩).script = .key ⟨4#4, false⟩ :: [] :=
  blocked_meets _

theorem witness_RenderStrobeOncePerCompletedCycle :
    (State.reset.rs = .running ∧ State.reset.ticksNext) ∧
    ((waiting [⟨0#4, true⟩]).rs = .waitKey ∧ (waiting [⟨0#4, true⟩]).ticksNext) ∧
    ((State.reset.setRs .fatal).rs = .fatal ∧ (State.reset.setRs .fatal).ticksNext) ∧
    ((State.reset.setRs .halted).rs = .halted ∧ (State.reset.setRs .halted).ticksNext) ∧
    ((blocked ⟨4#4, false⟩).rs = .waitKey ∧ (blocked ⟨4#4, false⟩).script = .key ⟨4#4, false⟩ :: []) ∧
    ((State.reset.setScript [.key ⟨0#4, true⟩]).rs ≠ .waitKey ∧
      (State.reset.setScript [.key ⟨0#4, true⟩]).script = .key ⟨0#4, true⟩ :: []) ∧
    (State.reset.setScript [.reset []]).script = .reset [] :: [] :=
  ⟨⟨rfl, .inl rfl⟩, ⟨rfl, .inr ⟨_, rfl⟩⟩, ⟨rfl, .inl rfl⟩, ⟨rfl, .inl rfl⟩, ⟨rfl, rfl⟩, ⟨by decide, rfl⟩, rfl⟩

/-- A cycle of `6000`, whose meaning leaves ST, AP and SST as P1 left them. -/
theorem witness_AudioFollowsTheSoundTimer (s : State) (h : s = (placed 0x6000).setSt 2#8) :
    s.rs = .running ∧ s.ticksNext ∧ decode s.fetch = some (.ldImm 0#4 0#8) ∧
    ∃ u, exec (.ldImm 0#4 0#8) s.afterP1 = .next u ∧ u.rs = .running ∧ 0 < u.st.toNat := by
  subst h
  have hd : decode ((placed 0x6000).setSt 2#8).fetch = some (.ldImm 0#4 0#8) := by decide +kernel
  exact ⟨rfl, .inr ⟨_, rfl⟩, hd, _, rfl, rfl, by decide +kernel⟩

theorem witness_AudioFollowsTheSoundTimer_silent :
    ∃ u, exec (.ldImm 0#4 0#8) (placed 0x6000).afterP1 = .next u ∧ u.rs = .running ∧ u.st.toNat = 0 ∧ u.ap = false :=
  ⟨_, rfl, rfl, by decide +kernel, rfl⟩

/-- ST at 1, so that P1 makes it 0, and 50 ms passed, whatever the time answered. -/
theorem witness_AudioFollowsTheSoundTimer_pause :
    ∃ u, exec (.ldImm 0#4 0#8) (((((placed 0x6000).setSt 1#8).setAp true).readClock).setSst 0).afterP1 = .next u ∧
      u.rs = .running ∧ u.st.toNat = 0 ∧ u.ap = true ∧ u.sst ≤ u.clock :=
  ⟨_, rfl, rfl, by decide +kernel, rfl, Nat.zero_le _⟩

/-- SST at the very time P5 reads, so that 0 ms have passed. -/
theorem witness_AudioFollowsTheSoundTimer_hold :
    ∃ u, exec (.ldImm 0#4 0#8) (((placed 0x6000).setAp true).setSst (Config.timeStep 0)).afterP1 = .next u ∧
      u.rs = .running ∧ u.st.toNat = 0 ∧ u.ap = true ∧ u.clock + Config.timeStep u.nowIndex < u.sst + 50 := by
  refine ⟨_, rfl, rfl, by decide +kernel, rfl, ?_⟩
  show 0 + Config.timeStep 0 < Config.timeStep 0 + 50
  omega

/-- A press that arrives in a wait, with an event already queued and with none. -/
theorem witness_AudioFollowsTheSoundTimer_resumed :
    ((blocked ⟨4#4, true⟩).rs = .waitKey ∧ decode (blocked ⟨4#4, true⟩).fetch = some (.ldVxK 5#4) ∧
      (blocked ⟨4#4, true⟩).script = .key ⟨4#4, true⟩ :: []) ∧
    (((blocked ⟨4#4, true⟩).setKq [⟨9#4, true⟩]).rs = .waitKey ∧
      ((blocked ⟨4#4, true⟩).setKq [⟨9#4, true⟩]).fetch = (blocked ⟨4#4, true⟩).fetch ∧
      ((blocked ⟨4#4, true⟩).setKq [⟨9#4, true⟩]).script = .key ⟨4#4, true⟩ :: []) :=
  ⟨⟨rfl, (blocked_meets _).2.2.1, rfl⟩, rfl, rfl, rfl⟩

/-- A tick that finds a press queued behind a release. -/
theorem witness_AudioFollowsTheSoundTimer_tick :
    (waiting [⟨3#4, false⟩, ⟨15#4, true⟩]).rs = .waitKey ∧ (waiting [⟨3#4, false⟩, ⟨15#4, true⟩]).ticksNext ∧
    decode (waiting [⟨3#4, false⟩, ⟨15#4, true⟩]).fetch = some (.ldVxK 5#4) ∧
    ∃ e ∈ (waiting [⟨3#4, false⟩, ⟨15#4, true⟩]).kq ++ (waiting [⟨3#4, false⟩, ⟨15#4, true⟩]).arrivals, e.pressed = true :=
  ⟨rfl, .inr ⟨_, rfl⟩, (waiting_meets _).2.1, by rw [(waiting_meets _).2.2.2]; decide⟩

theorem witness_StepKeepsParametersAndTimeGoesForward : ∃ t, step State.reset = .next t :=
  ⟨_, (step_of_cycle rfl (.inl rfl)).trans (runCycle_of_illegal (by decide +kernel))⟩

/-- The shortest and the longest image. -/
theorem witness_ResetLeavesTheTabledValues :
    ([] : List Byte).length ≤ 3584 ∧ (List.replicate 3584 0xFF#8).length ≤ 3584 ∧
    (0x04F#12).toNat < 80 ∧ (80 ≤ (0x050#12).toNat ∧ (0x1FF#12).toNat < 0x200) ∧ 0x200 ≤ (0x200#12).toNat := by
  rw [List.length_replicate]
  decide

theorem witness_OverlongImageIsRefused : 3584 < (List.replicate 3585 0#8 : List Byte).length ∧
    (State.reset.setScript [.reset (List.replicate 3585 0#8)]).script = .reset (List.replicate 3585 0#8) :: [] := by
  rw [List.length_replicate]
  exact ⟨by decide, rfl⟩

theorem witness_ResetMoveKeepsNothingOfTheRun :
    ((State.reset.setRs .fatal).setScript [.reset [0x12#8, 0x06#8]]).script = .reset [0x12#8, 0x06#8] :: [] ∧
    ([0x12#8, 0x06#8] : List Byte).length ≤ 3584 := ⟨rfl, by decide⟩

/-- A state with the audio on meets the invariant, and so does the reset state. -/
theorem inv_reset : State.reset.Inv :=
  ⟨rfl, Nat.le_refl _, nofun, nofun, fun h => absurd rfl h, nofun, fun h => absurd h (by decide), nofun, nofun⟩

theorem witness_StepKeepsTheInvariant : State.reset.Inv ∧ ∃ t, step State.reset = .next t :=
  ⟨inv_reset, witness_StepKeepsParametersAndTimeGoesForward⟩

theorem witness_ResetMeetsTheInvariant : ∃ s, State.boot Params.default [] = some s := ⟨_, test_boot_empty⟩

theorem witness_InstructionsWriteOnlyWhatTheSpecNames :
    (∃ t, exec (.addReg 1#4 2#4) State.reset = .next t) ∧ mayWriteReg (.addReg 1#4 2#4) 2#4 = false := ⟨⟨_, rfl⟩, by decide⟩

theorem witness_ProgramCounterMovesByTwoOrFour :
    (∃ t, exec (.seReg 5#4 5#4) (State.reset.setPc 0xFFF#12) = .next t ∧ t.pc = 0x003#12) ∧
    (∃ t, exec (.ldI 0#12) (State.reset.setPc 0xFFF#12) = .next t ∧ t.pc = 0x001#12) ∧
    (∃ t, exec (.ldVxK 0#4) State.reset = .next t ∧ t.pc = 0x200#12 ∧ t.rs = .waitKey) ∧
    (∃ t, exec (.skp 0#4) (regs [(0#4, 0x10#8)]) = .next t ∧ t.pc = 0x200#12 ∧ t.rs = .fatal) ∧
    Instr.seReg 5#4 5#4 ≠ .ret ∧ ∀ nnn, Instr.seReg 5#4 5#4 ≠ .jp nnn ∧ Instr.seReg 5#4 5#4 ≠ .call nnn ∧
      Instr.seReg 5#4 5#4 ≠ .jpV0 nnn :=
  ⟨⟨_, rfl, by decide +kernel⟩, ⟨_, rfl, by decide +kernel⟩, ⟨_, rfl, rfl, rfl⟩, ⟨_, rfl, by decide +kernel, by decide +kernel⟩,
    by simp, by simp⟩

theorem witness_IndexTopBitsAreUnobservable :
    SameButIndexTop ((placed 0xD125).setI 0x0300#16) ((placed 0xD125).setI 0xF300#16) := ⟨by decide, rfl⟩

/-- An unbounded stack, and a depth of 2 with one frame held. -/
theorem witness_CallPushesItsOwnAddress :
    (∀ d, State.reset.cfg.stackDepth = some d → State.reset.sp < d) ∧
    (∀ d, (withDepth 2 (State.reset.pushFrame 0x204#12)).cfg.stackDepth = some d →
      (withDepth 2 (State.reset.pushFrame 0x204#12)).sp < d) := by
  refine ⟨nofun, fun d h => ?_⟩
  cases h
  decide

theorem witness_CallOnAFullStackOverflows :
    ((withDepth 0 State.reset).cfg.stackDepth = some 0 ∧ (withDepth 0 State.reset).sp = 0) ∧
    ((withDepth 1 (State.reset.pushFrame 0x204#12)).cfg.stackDepth = some 1 ∧
      (withDepth 1 (State.reset.pushFrame 0x204#12)).sp = 1) := ⟨⟨rfl, rfl⟩, rfl, rfl⟩

theorem witness_ReturnResumesAfterTheCall :
    0 < (State.reset.pushFrame 0xFFE#12).sp ∧
    (State.reset.pushFrame 0xFFE#12).frame ((State.reset.pushFrame 0xFFE#12).sp - 1) = some 0xFFE#12 := by decide

theorem witness_ReturnOnTheEmptyStackHalts :
    (placed 0x00EE).rs = .running ∧ (placed 0x00EE).ticksNext ∧ decode (placed 0x00EE).fetch = some .ret ∧
      (placed 0x00EE).sp = 0 := ⟨rfl, .inr ⟨_, rfl⟩, by decide +kernel, rfl⟩

/-- The balanced execution between the two is empty. -/
theorem witness_CallAndReturnRoundTrip :
    (∀ d, State.reset.cfg.stackDepth = some d → State.reset.sp < d) ∧
    ∃ t, exec (.call 0x300#12) State.reset = .next t ∧ t.sp = State.reset.sp + 1 ∧
      t.frame State.reset.sp = t.frame State.reset.sp := ⟨nofun, _, rfl, rfl, rfl⟩

/-- Modes `ram` and `ignore` with an address in the font, mode `fault` with none. -/
theorem witness_DecimalDigitsAreStored :
    ¬ ((State.reset.setI 0xFFE#16).cfg.fontWrite = .fault ∧ HitsFont (State.reset.setI 0xFFE#16) 3) ∧
    ¬ ((withFont .ignore (State.reset.setI 0xFFE#16)).cfg.fontWrite = .fault ∧
      HitsFont (withFont .ignore (State.reset.setI 0xFFE#16)) 3) ∧
    ¬ ((withFont .fault (State.reset.setI 0x050#16)).cfg.fontWrite = .fault ∧
      HitsFont (withFont .fault (State.reset.setI 0x050#16)) 3) := by
  refine ⟨fun h => absurd h.1 (by decide), fun h => absurd h.1 (by decide), ?_⟩
  rintro ⟨-, k, hk, h⟩
  have e : ((0x050 : Nat) + k) % 4096 < 80 := h
  omega

theorem witness_RegistersAreStored :
    ¬ ((State.reset.setI 0xFFE#16).cfg.fontWrite = .fault ∧ HitsFont (State.reset.setI 0xFFE#16) ((15#4).toNat + 1)) ∧
    ¬ ((withFont .fault (State.reset.setI 0xFF0#16)).cfg.fontWrite = .fault ∧
      HitsFont (withFont .fault (State.reset.setI 0xFF0#16)) ((15#4).toNat + 1)) := by
  refine ⟨fun h => absurd h.1 (by decide), ?_⟩
  rintro ⟨-, k, hk, h⟩
  have e : ((0xFF0 : Nat) + k) % 4096 < 80 := h
  have e' : k < 16 := hk
  omega

/-- The first address of the store, and the last one. -/
theorem witness_FontStoreFaultsBeforeWriting :
    ((withFont .fault (State.reset.setI 0x04F#16)).cfg.fontWrite = .fault ∧ (0x04F + 0) % 4096 < 80) ∧
    ((withFont .fault (State.reset.setI 0xFFE#16)).cfg.fontWrite = .fault ∧ (2 < 3 ∧ (0xFFE + 2) % 4096 < 80) ∧
      ∀ j, j < 2 → 80 ≤ (0xFFE + j) % 4096) := ⟨⟨rfl, by decide⟩, rfl, by decide, by decide⟩

theorem witness_RegistersAreLoaded :
    IsEa (State.reset.setI 0xFFF#16) 1 0x000#12 ∧ (1#4).toNat ≤ (1#4).toNat ∧ (1#4).toNat < (2#4).toNat :=
  ⟨by show (0 : Nat) = _; decide, by decide, by decide⟩

theorem witness_StoreThenLoadRestoresTheRegisters :
    (State.reset.cfg.fontWrite = .ram ∨ ¬ HitsFont State.reset ((3#4).toNat + 1)) ∧
    ∃ t, exec (.ldMemVx 3#4) State.reset = .next t ∧ t.i = State.reset.i :=
  ⟨.inl rfl, _, rfl, by decide +kernel⟩

theorem witness_DrawTwiceRestoresTheScreen : (0#4 : Nibble) ≠ 15#4 ∧ (14#4 : Nibble) ≠ 15#4 := by decide

/-- An index up to 15 in mode `fault`, and one above it in the other two modes. -/
theorem witness_KeySkipsDrainThenTest :
    ¬ (15 < ((regs [(0#4, 15#8)]).reg 0#4).toNat ∧ (regs [(0#4, 15#8)]).cfg.keyOor = .fault) ∧
    ¬ (15 < ((withKeys .mask (regs [(0#4, 16#8)])).reg 0#4).toNat ∧ (withKeys .mask (regs [(0#4, 16#8)])).cfg.keyOor = .fault) ∧
    ¬ (15 < ((withKeys .released (regs [(0#4, 16#8)])).reg 0#4).toNat ∧
      (withKeys .released (regs [(0#4, 16#8)])).cfg.keyOor = .fault) := by decide

theorem witness_KeyIndexAboveFifteenFaults :
    15 < ((regs [(0#4, 16#8)]).reg 0#4).toNat ∧ (regs [(0#4, 16#8)]).cfg.keyOor = .fault := by decide

theorem witness_DelayTimerIsReadAfterItsDecrement :
    (placed 0xFF07).rs = .running ∧ (placed 0xFF07).ticksNext ∧ decode (placed 0xFF07).fetch = some (.ldVxDt 15#4) :=
  ⟨rfl, .inr ⟨_, rfl⟩, by decide +kernel⟩

theorem witness_DelayTimerIsSetAfterItsDecrement :
    (placed 0xFF15).rs = .running ∧ (placed 0xFF15).ticksNext ∧ decode (placed 0xFF15).fetch = some (.ldDtVx 15#4) :=
  ⟨rfl, .inr ⟨_, rfl⟩, by decide +kernel⟩

theorem witness_FirstQueuedPressIsTaken :
    (State.reset.setKq [⟨3#4, false⟩, ⟨7#4, true⟩, ⟨2#4, true⟩]).kq =
      [⟨3#4, false⟩] ++ { key := 7#4, pressed := true } :: [⟨2#4, true⟩] ∧
    ∀ e ∈ [KeyEvent.mk 3#4 false], e.pressed = false := ⟨rfl, by decide⟩

/-- An empty queue, and one of releases. -/
theorem witness_NoQueuedPressBlocks : (∀ e ∈ State.reset.kq, e.pressed = false) ∧
    ∀ e ∈ (State.reset.setKq [⟨3#4, false⟩, ⟨3#4, false⟩]).kq, e.pressed = false := ⟨nofun, by decide⟩

end Sys2Proof.Tests
end

section
/-! SUPPORT. The fetch as numbers (20_memory.md R36): the address of the second byte, the word of the two bytes, and the
obligation that puts them together. -/

namespace Sys2Proof.Machine

/-- 20_memory.md R32, R36: the second byte of a fetch is at `(pc + 1) mod 4096`, and that number names no other address. -/
theorem eq_add_one_iff (a pc : Addr) : a = pc + 1#12 ↔ a.toNat = (pc.toNat + 1) % 4096 := by
  rw [← BitVec.toNat_inj, BitVec.toNat_add]
  rfl

/-- The fetched word as a number, the byte at `pc` the more significant. -/
theorem State.toNat_fetch (s : State) :
    s.fetch.toNat = 256 * (s.byteAt s.pc).toNat + (s.byteAt (s.pc + 1#12)).toNat :=
  toNat_wordOfBytes _ _

/-- Settles O7: the number given for `a` is that of the address the fetch reads second. -/
theorem fetchIsBigEndianAndWraps : Obligations.FetchIsBigEndianAndWraps := by
  intro s a ha
  rw [(eq_add_one_iff a s.pc).mpr ha]
  exact s.toNat_fetch

end Sys2Proof.Machine
end

section
/-! SUPPORT. Control transfer as numbers (40_cycle_and_control.md R71, R74): the frame of a write of `pc`, where a skip leaves
`pc`, and the obligations on the two plain jumps and the four register skips. -/

namespace Sys2Proof.Machine

/-- A write of `pc` changes `pc` alone. -/
theorem State.onlyChanges_setPc (s : State) (a : Addr) : OnlyChanges [.pc] s (s.setPc a) :=
  (OnlyChanges.refl _ s).setPc (List.mem_singleton.mpr rfl) a

/-- A skip changes `pc` alone, whichever way it goes. -/
theorem State.onlyChanges_skipIf (s : State) (b : Bool) : OnlyChanges [.pc] s (s.skipIf b) := by
  rw [State.skipIf_eq]
  exact s.onlyChanges_setPc _

/-- R71, R74: the number a skip leaves in `pc`, with the wrap of the program counter. -/
theorem State.toNat_pc_skipIf (s : State) (b : Bool) :
    (s.skipIf b).pc.toNat = (s.pc.toNat + if b = true then 4 else 2) % 4096 := by
  rw [State.skipIf_eq, State.setPc_pc, BitVec.toNat_add]
  cases b <;> rfl

/-- R81, R83: a skip on equality of two bytes goes by their numbers, so by all eight bits. -/
theorem State.toNat_pc_skipIf_beq (s : State) (a b : Byte) :
    (s.skipIf (a == b)).pc.toNat = (s.pc.toNat + if a.toNat = b.toNat then 4 else 2) % 4096 := by
  rw [State.toNat_pc_skipIf]
  simp only [beq_iff_eq, BitVec.toNat_inj]

/-- R82, R84: a skip on inequality goes the other way round. -/
theorem State.toNat_pc_skipIf_bne (s : State) (a b : Byte) :
    (s.skipIf (a != b)).pc.toNat = (s.pc.toNat + if a.toNat = b.toNat then 2 else 4) % 4096 := by
  rw [State.toNat_pc_skipIf]
  simp only [bne_iff_ne, ne_eq, ite_not, BitVec.toNat_inj]

/-- R80: a byte added to an address, as numbers; the sum wraps at the end of memory. -/
theorem toNat_add_setWidth (a : Addr) (b : Byte) :
    (a + b.setWidth 12).toNat = (a.toNat + b.toNat) % 4096 := by
  rw [BitVec.toNat_add, BitVec.toNat_setWidth_of_le (by decide)]

/-- Settles O28: the instruction is the write of its target into `pc`. -/
theorem jumpGoesToItsTarget : Obligations.JumpGoesToItsTarget := fun nnn s =>
  ⟨s.setPc nnn, rfl, s.setPc_pc nnn, s.onlyChanges_setPc nnn⟩

/-- Settles O29: the instruction is the write of `nnn + V[0]` into `pc`, and the sum of addresses wraps as the rule says. -/
theorem jumpWithOffsetAddsV0 : Obligations.JumpWithOffsetAddsV0 := fun nnn s =>
  ⟨s.setPc (nnn + (s.reg 0#4).setWidth 12), rfl, toNat_add_setWidth nnn (s.reg 0#4), s.onlyChanges_setPc _⟩

/-- Settles O35: the two SE skip on equality, the two SNE on inequality, of `V[x]` with the immediate or with `V[y]`. -/
theorem skipsTestTheirCondition : Obligations.SkipsTestTheirCondition := by
  refine ⟨fun x nn s => ?seImm, fun x nn s => ?sneImm, fun x y s => ?seReg, fun x y s => ?sneReg⟩
  case seImm => exact ⟨_, rfl, s.onlyChanges_skipIf _, s.toNat_pc_skipIf_beq (s.reg x) nn⟩
  case sneImm => exact ⟨_, rfl, s.onlyChanges_skipIf _, s.toNat_pc_skipIf_bne (s.reg x) nn⟩
  case seReg => exact ⟨_, rfl, s.onlyChanges_skipIf _, s.toNat_pc_skipIf_beq (s.reg x) (s.reg y)⟩
  case sneReg => exact ⟨_, rfl, s.onlyChanges_skipIf _, s.toNat_pc_skipIf_bne (s.reg x) (s.reg y)⟩

end Sys2Proof.Machine
end

section
/-! SUPPORT. A register write followed by NEXT (41_load_and_alu.md R92 to R94, 40_cycle_and_control.md R71): the value it leaves, its
frame and the program counter, and the obligation on the two loads and the immediate add. -/

namespace Sys2Proof.Machine

/-- The register written holds the value written; moving on does not touch it. -/
@[simp] theorem State.reg_writeNext_self (s : State) (x : Nibble) (b : Byte) : (s.writeNext x b).reg x = b :=
  s.reg_setReg_self x b

/-- Every other register is kept, VF among them when the register written is not VF. -/
theorem State.regsKeptExcept_writeNext (s : State) (x : Nibble) (b : Byte) :
    RegsKeptExcept [x] s (s.writeNext x b) :=
  (RegsKeptExcept.refl _ s).setReg x b (List.mem_singleton.mpr rfl)

/-- R71, R74: the instruction goes on to the next one, with the wrap of the program counter. -/
theorem State.toNat_pc_writeNext (s : State) (x : Nibble) (b : Byte) :
    (s.writeNext x b).pc.toNat = (s.pc.toNat + 2) % 4096 :=
  BitVec.toNat_add s.pc 2#12

/-- The registers and `pc` are all that changes. -/
theorem State.onlyChanges_writeNext (s : State) (x : Nibble) (b : Byte) :
    OnlyChanges [.v, .pc] s (s.writeNext x b) :=
  ((OnlyChanges.refl _ s).setReg (by decide) x b).setPc (by decide) _

/-- Settles O36: each instruction is one register write followed by NEXT, and a sum of bytes wraps modulo 256. -/
theorem loadsAndImmediateAdd : Obligations.LoadsAndImmediateAdd := by
  refine ⟨fun x nn s => ?ldImm, fun x nn s => ?addImm, fun x y s => ?ldReg⟩
  case ldImm =>
    exact ⟨s.writeNext x nn, rfl, s.reg_writeNext_self x nn, s.regsKeptExcept_writeNext x nn,
      s.toNat_pc_writeNext x nn, s.onlyChanges_writeNext x nn⟩
  case addImm =>
    have hsum : ((s.writeNext x (s.reg x + nn)).reg x).toNat = ((s.reg x).toNat + nn.toNat) % 256 := by
      rw [State.reg_writeNext_self, BitVec.toNat_add]
    exact ⟨s.writeNext x (s.reg x + nn), rfl, hsum, s.regsKeptExcept_writeNext x _,
      s.toNat_pc_writeNext x _, s.onlyChanges_writeNext x _⟩
  case ldReg =>
    exact ⟨s.writeNext x (s.reg y), rfl, s.reg_writeNext_self x _, s.regsKeptExcept_writeNext x _,
      s.toNat_pc_writeNext x _, s.onlyChanges_writeNext x _⟩

end Sys2Proof.Machine
end

section
/-! SUPPORT. A write of I followed by NEXT (42_index_and_memory.md R111, 40_cycle_and_control.md R71): its frame and the program
counter, the top bits of a zero-extended address, and the obligation on LD I, nnn. -/

namespace Sys2Proof.Machine

/-- I and `pc` are all that changes. -/
theorem State.onlyChanges_setI_advance (s : State) (w : Word) : OnlyChanges [.i, .pc] s (s.setI w).advance :=
  ((OnlyChanges.refl _ s).setI (by decide) w).setPc (by decide) _

/-- R71, R74: NEXT goes on by one instruction, with the wrap of the program counter. -/
theorem State.toNat_pc_advance (s : State) : s.advance.pc.toNat = (s.pc.toNat + 2) % 4096 :=
  BitVec.toNat_add s.pc 2#12

/-- R111: zero-extension leaves the four bits above an address 0, since an address is below 4096. -/
theorem extractLsb'_setWidth_addr (a : Addr) : (a.setWidth 16).extractLsb' 12 4 = 0#4 := by
  have hdiv : a.toNat / 4096 = 0 := Nat.div_eq_of_lt a.isLt
  apply BitVec.eq_of_toNat_eq
  rw [BitVec.extractLsb'_toNat, BitVec.toNat_setWidth_of_le (by decide), Nat.shiftRight_eq_div_pow, hdiv]
  rfl

/-- Settles O43: the instruction is the write of the zero-extended address into I, followed by NEXT. -/
theorem indexRegisterIsLoaded : Obligations.IndexRegisterIsLoaded := fun nnn s =>
  ⟨(s.setI (nnn.setWidth 16)).advance, rfl, BitVec.toNat_setWidth_of_le (by decide), extractLsb'_setWidth_addr nnn,
    (s.setI _).toNat_pc_advance, s.onlyChanges_setI_advance _⟩

end Sys2Proof.Machine
end

section
/-! SUPPORT. A write of the frame buffer followed by NEXT (43_display.md R120, 40_cycle_and_control.md R71): its frame, and the
obligation on CLS. -/

namespace Sys2Proof.Machine

/-- The pixels and `pc` are all that changes. -/
theorem State.onlyChanges_setFb_advance (s : State) (f : Screen) : OnlyChanges [.fb, .pc] s (s.setFb f).advance :=
  ((OnlyChanges.refl _ s).setFb (by decide) f).setPc (by decide) _

/-- Settles O50: the instruction is the write of the blank screen, whose every pixel reads off, followed by NEXT. -/
theorem clearDarkensEveryPixel : Obligations.ClearDarkensEveryPixel := fun s =>
  ⟨(s.setFb blankScreen).advance, rfl, getPixel_blankScreen, (s.setFb _).toNat_pc_advance,
    s.onlyChanges_setFb_advance _⟩

end Sys2Proof.Machine
end

section
/-! SUPPORT. A step on a tick as P4 from the state P1 left, then P5 and P6 (40_cycle_and_control.md R70), what P5 and P6 leave of
the registers and the delay timer, and the obligation on LD Vx, DT (44_keypad_and_timers.md R139). -/

namespace Sys2Proof.Machine

/-- R70: a running machine's tick runs the decoded instruction from the state P1 left, then P5 and P6. -/
theorem step_of_decode {s t : State} {i : Instr} (hr : s.rs = .running) (htick : s.ticksNext)
    (hi : decode s.fetch = some i) (ht : exec i s.afterP1 = .next t) : step s = .next t.finish := by
  rw [step_of_cycle hr htick]
  exact runCycle_of_decode (by rwa [State.afterP1_fetch]) ht

/-- P5 and P6 keep every register. -/
@[simp] theorem State.finish_reg (s : State) (r : Nibble) : s.finish.reg r = s.reg r :=
  s.finish_frame .v (by decide) r

/-- P5 and P6 keep the delay timer. -/
@[simp] theorem State.finish_dt (s : State) : s.finish.dt = s.dt :=
  s.finish_frame .dt (by decide)

/-- R160: P1 lowers the delay timer by one and stops at 0. -/
theorem State.toNat_afterP1_dt (s : State) : s.afterP1.dt.toNat = s.dt.toNat - 1 :=
  toNat_timerDown s.dt

/-- Settles O57: P4 writes into `V[x]` the delay timer of the state it starts from, which in a cycle is the state P1 left, and
neither P4 nor P5 and P6 touch the delay timer. -/
theorem delayTimerIsReadAfterItsDecrement : Obligations.DelayTimerIsReadAfterItsDecrement := by
  refine ⟨fun x s => ?exec, fun x s hr htick hi => ?cycle⟩
  case exec =>
    exact ⟨s.writeNext x s.dt, rfl, s.reg_writeNext_self x _, s.regsKeptExcept_writeNext x _,
      s.toNat_pc_writeNext x _, s.onlyChanges_writeNext x _⟩
  case cycle =>
    have hreg : (s.afterP1.writeNext x s.afterP1.dt).finish.reg x = s.afterP1.dt := by
      rw [State.finish_reg, State.reg_writeNext_self]
    have hdt : (s.afterP1.writeNext x s.afterP1.dt).finish.dt = s.afterP1.dt := State.finish_dt _
    refine ⟨_, step_of_decode hr htick hi rfl, ?_, hdt.trans hreg.symm⟩
    exact (congrArg BitVec.toNat hreg).trans s.toNat_afterP1_dt

end Sys2Proof.Machine
end

section
/-! SUPPORT. The decoder and the encoder as inverses (30_encoding.md R51 to R54): the decoding procedure by the family of
the word, a word put together from its own fields, and the two round trips. -/

namespace Sys2Proof

/-! R54: the procedure reads the family first. -/

section families
variable {op : Word}

theorem decode_family0 (h : opF op = 0x0#4) : decode op = decode0 op := by simp [decode, h]
theorem decode_family1 (h : opF op = 0x1#4) : decode op = some (.jp (opNNN op)) := by simp [decode, h]
theorem decode_family2 (h : opF op = 0x2#4) : decode op = some (.call (opNNN op)) := by simp [decode, h]
theorem decode_family3 (h : opF op = 0x3#4) : decode op = some (.seImm (opX op) (opNN op)) := by simp [decode, h]
theorem decode_family4 (h : opF op = 0x4#4) : decode op = some (.sneImm (opX op) (opNN op)) := by simp [decode, h]
theorem decode_family5 (h : opF op = 0x5#4) :
    decode op = if opN op = 0#4 then some (.seReg (opX op) (opY op)) else none := by simp [decode, h]
theorem decode_family6 (h : opF op = 0x6#4) : decode op = some (.ldImm (opX op) (opNN op)) := by simp [decode, h]
theorem decode_family7 (h : opF op = 0x7#4) : decode op = some (.addImm (opX op) (opNN op)) := by simp [decode, h]
theorem decode_family8 (h : opF op = 0x8#4) : decode op = decode8 op := by simp [decode, h]
theorem decode_family9 (h : opF op = 0x9#4) :
    decode op = if opN op = 0#4 then some (.sneReg (opX op) (opY op)) else none := by simp [decode, h]
theorem decode_familyA (h : opF op = 0xA#4) : decode op = some (.ldI (opNNN op)) := by simp [decode, h]
theorem decode_familyB (h : opF op = 0xB#4) : decode op = some (.jpV0 (opNNN op)) := by simp [decode, h]
theorem decode_familyC (h : opF op = 0xC#4) : decode op = some (.rnd (opX op) (opNN op)) := by simp [decode, h]
theorem decode_familyD (h : opF op = 0xD#4) : decode op = some (.drw (opX op) (opY op) (opN op)) := by simp [decode, h]
theorem decode_familyE (h : opF op = 0xE#4) : decode op = decodeE op := by simp [decode, h]
theorem decode_familyF (h : opF op = 0xF#4) : decode op = decodeF op := by simp [decode, h]

end families

/-- The families are the sixteen values of the selector. -/
theorem nibble_cases (f : Nibble) :
    f = 0x0#4 ∨ f = 0x1#4 ∨ f = 0x2#4 ∨ f = 0x3#4 ∨ f = 0x4#4 ∨ f = 0x5#4 ∨ f = 0x6#4 ∨ f = 0x7#4 ∨
    f = 0x8#4 ∨ f = 0x9#4 ∨ f = 0xA#4 ∨ f = 0xB#4 ∨ f = 0xC#4 ∨ f = 0xD#4 ∨ f = 0xE#4 ∨ f = 0xF#4 := by
  revert f
  decide

/-- R51: a word is its family and its low 12 bits. -/
theorem wordNNN_opNNN {op : Word} {f : Nibble} (hf : opF op = f) : wordNNN f (opNNN op) = op := by
  apply BitVec.eq_of_toNat_eq
  rw [← hf, toNat_wordNNN, toNat_opF, toNat_opNNN]
  omega

/-- R51: a word is its family, its register index and its low byte. -/
theorem wordXNN_opX {op : Word} {f : Nibble} {nn : Byte} (hf : opF op = f) (hnn : opNN op = nn) :
    wordXNN f (opX op) nn = op := by
  apply BitVec.eq_of_toNat_eq
  rw [← hf, ← hnn, toNat_wordXNN, toNat_opF, toNat_opX, toNat_opNN]
  omega

/-- R51: a word is its four hexadecimal digits. -/
theorem word4_opX_opY {op : Word} {f n : Nibble} (hf : opF op = f) (hn : opN op = n) :
    word4 f (opX op) (opY op) n = op := by
  apply BitVec.eq_of_toNat_eq
  rw [← hf, ← hn, toNat_word4, toNat_opF, toNat_opX, toNat_opY, toNat_opN]
  omega

/-- R54: what family 0 decodes to encodes to the word. -/
theorem encode_of_decode0 {op : Word} {i : Instr} (h : decode0 op = some i) : encode i = op := by
  unfold decode0 at h
  split_ifs at h with hcls hret <;> cases h
  · exact hcls.symm
  · exact hret.symm

/-- R54: what a word of family 8 decodes to has its `op[3:0]`, and encodes to the word. -/
theorem encode_of_decode8 {op : Word} {i : Instr} (hf : opF op = 0x8#4) (h : decode8 op = some i) : encode i = op := by
  unfold decode8 at h
  split_ifs at h with hn hn hn hn hn hn hn hn hn <;> cases h <;> exact word4_opX_opY hf hn

/-- R54: what a word of family E decodes to has its `op[7:0]`, and encodes to the word. -/
theorem encode_of_decodeE {op : Word} {i : Instr} (hf : opF op = 0xE#4) (h : decodeE op = some i) : encode i = op := by
  unfold decodeE at h
  split_ifs at h with hnn hnn <;> cases h <;> exact wordXNN_opX hf hnn

/-- R54: what a word of family F decodes to has its `op[7:0]`, and encodes to the word. -/
theorem encode_of_decodeF {op : Word} {i : Instr} (hf : opF op = 0xF#4) (h : decodeF op = some i) : encode i = op := by
  unfold decodeF at h
  split_ifs at h with hnn hnn hnn hnn hnn hnn hnn hnn hnn <;> cases h <;> exact wordXNN_opX hf hnn

/-- R54: a word of family 5 or 9 that decodes has `op[3:0]` = 0. -/
theorem opN_of_ite_eq_some {op : Word} {i j : Instr} (h : (if opN op = 0#4 then some i else none) = some j) :
    opN op = 0#4 ∧ i = j := by
  split_ifs at h with hn
  exact ⟨hn, Option.some.inj h⟩

/-- Settles O1: the family and the selecting digits of an encoded word are those of its pattern, and the fields left are the
operands. -/
theorem decodeOfEncodeIsTheInstruction : Obligations.DecodeOfEncodeIsTheInstruction := by
  intro i
  cases i
  case cls | ret => rfl
  case jp | call | ldI | jpV0 =>
    simp [encode, decode_family1, decode_family2, decode_familyA, decode_familyB]
  case seImm | sneImm | ldImm | addImm | rnd =>
    simp [encode, decode_family3, decode_family4, decode_family6, decode_family7, decode_familyC]
  case seReg | sneReg | drw => simp [encode, decode_family5, decode_family9, decode_familyD]
  case ldReg | orReg | andReg | xorReg | addReg | subReg | shr | subn | shl =>
    simp [encode, decode_family8, decode8]
  case skp | sknp => simp [encode, decode_familyE, decodeE]
  case ldVxDt | ldVxK | ldDtVx | ldStVx | addI | ldF | ldB | ldMemVx | ldVxMem =>
    simp [encode, decode_familyF, decodeF]

/-- Settles O2: family by family, the instruction is the one whose pattern the word has, so encoding it puts the word
together from its own fields. -/
theorem encodeOfDecodeIsTheWord : Obligations.EncodeOfDecodeIsTheWord := by
  intro op i h
  rcases nibble_cases (opF op) with hf | hf | hf | hf | hf | hf | hf | hf | hf | hf | hf | hf | hf | hf | hf | hf
  · exact encode_of_decode0 (decode_family0 hf ▸ h)
  · cases decode_family1 hf ▸ h
    exact wordNNN_opNNN hf
  · cases decode_family2 hf ▸ h
    exact wordNNN_opNNN hf
  · cases decode_family3 hf ▸ h
    exact wordXNN_opX hf rfl
  · cases decode_family4 hf ▸ h
    exact wordXNN_opX hf rfl
  · obtain ⟨hn, rfl⟩ := opN_of_ite_eq_some (decode_family5 hf ▸ h)
    exact word4_opX_opY hf hn
  · cases decode_family6 hf ▸ h
    exact wordXNN_opX hf rfl
  · cases decode_family7 hf ▸ h
    exact wordXNN_opX hf rfl
  · exact encode_of_decode8 hf (decode_family8 hf ▸ h)
  · obtain ⟨hn, rfl⟩ := opN_of_ite_eq_some (decode_family9 hf ▸ h)
    exact word4_opX_opY hf hn
  · cases decode_familyA hf ▸ h
    exact wordNNN_opNNN hf
  · cases decode_familyB hf ▸ h
    exact wordNNN_opNNN hf
  · cases decode_familyC hf ▸ h
    exact wordXNN_opX hf rfl
  · cases decode_familyD hf ▸ h
    exact word4_opX_opY hf rfl
  · exact encode_of_decodeE hf (decode_familyE hf ▸ h)
  · exact encode_of_decodeF hf (decode_familyF hf ▸ h)

/-- Settles O5: the sixteen families and their formats, by evaluation of the decoder. -/
theorem specWordsDecodeAsWritten : Obligations.SpecWordsDecodeAsWritten := by
  unfold Obligations.SpecWordsDecodeAsWritten
  decide

end Sys2Proof
end

section
/-! SUPPORT. The illegal words (30_encoding.md R56): the words the decoding procedure refuses by their fields and by their
number, and the opcode map of R53 as the procedure's other form. -/

namespace Sys2Proof

/-! A field is a literal exactly when the number it is cut from says so. -/

theorem opF_eq_ofNat (op : Word) (k : Nat) (hk : k < 16) : opF op = BitVec.ofNat 4 k ↔ op.toNat / 4096 = k := by
  rw [← BitVec.toNat_inj, toNat_opF, BitVec.toNat_ofNat, Nat.mod_eq_of_lt hk]

theorem opN_eq_ofNat (op : Word) (k : Nat) (hk : k < 16) : opN op = BitVec.ofNat 4 k ↔ op.toNat % 16 = k := by
  rw [← BitVec.toNat_inj, toNat_opN, BitVec.toNat_ofNat, Nat.mod_eq_of_lt hk]

theorem opNN_eq_ofNat (op : Word) (k : Nat) (hk : k < 256) : opNN op = BitVec.ofNat 8 k ↔ op.toNat % 256 = k := by
  rw [← BitVec.toNat_inj, toNat_opNN, BitVec.toNat_ofNat, Nat.mod_eq_of_lt hk]

theorem word_eq_ofNat (op : Word) (k : Nat) (hk : k < 65536) : op = BitVec.ofNat 16 k ↔ op.toNat = k := by
  rw [← BitVec.toNat_inj, BitVec.toNat_ofNat, Nat.mod_eq_of_lt hk]

/-- One test of the decoding procedure, when the word is refused. -/
theorem ite_some_eq_none_iff {α : Type} {p : Prop} [Decidable p] {a : α} {o : Option α} :
    (if p then some a else o) = none ↔ ¬ p ∧ o = none := by
  by_cases hp : p <;> simp [hp]

theorem decode0_eq_none_iff (op : Word) : decode0 op = none ↔ op ≠ 0x00E0#16 ∧ op ≠ 0x00EE#16 := by
  simp [decode0, ite_some_eq_none_iff]

theorem decode8_eq_none_iff (op : Word) :
    decode8 op = none ↔ opN op ∉ [0x0#4, 0x1#4, 0x2#4, 0x3#4, 0x4#4, 0x5#4, 0x6#4, 0x7#4, 0xE#4] := by
  simp [decode8, ite_some_eq_none_iff]

theorem decodeE_eq_none_iff (op : Word) : decodeE op = none ↔ opNN op ∉ [0x9E#8, 0xA1#8] := by
  simp [decodeE, ite_some_eq_none_iff]

theorem decodeF_eq_none_iff (op : Word) :
    decodeF op = none ↔
      opNN op ∉ [0x07#8, 0x0A#8, 0x15#8, 0x18#8, 0x1E#8, 0x29#8, 0x33#8, 0x55#8, 0x65#8] := by
  simp [decodeF, ite_some_eq_none_iff]

/-- R54, R56: the words of no instruction, by their fields. -/
theorem decode_eq_none_iff (op : Word) : decode op = none ↔
    (opF op = 0x0#4 ∧ op ≠ 0x00E0#16 ∧ op ≠ 0x00EE#16) ∨ (opF op = 0x5#4 ∧ opN op ≠ 0x0#4) ∨
    (opF op = 0x8#4 ∧ opN op ∉ [0x0#4, 0x1#4, 0x2#4, 0x3#4, 0x4#4, 0x5#4, 0x6#4, 0x7#4, 0xE#4]) ∨
    (opF op = 0x9#4 ∧ opN op ≠ 0x0#4) ∨ (opF op = 0xE#4 ∧ opNN op ∉ [0x9E#8, 0xA1#8]) ∨
    (opF op = 0xF#4 ∧ opNN op ∉ [0x07#8, 0x0A#8, 0x15#8, 0x18#8, 0x1E#8, 0x29#8, 0x33#8, 0x55#8, 0x65#8]) := by
  rw [← decode0_eq_none_iff, ← decode8_eq_none_iff, ← decodeE_eq_none_iff, ← decodeF_eq_none_iff]
  rcases nibble_cases (opF op) with h | h | h | h | h | h | h | h | h | h | h | h | h | h | h | h
  case inl => simp [h, decode_family0 h]
  all_goals simp [decode, h]

/-- Settles O4: the words refused by their fields are those of the table, number by number. -/
theorem illegalWordsAreThoseOfTheTable : Obligations.IllegalWordsAreThoseOfTheTable := by
  intro op
  rw [decode_eq_none_iff]
  simp only [ne_eq, List.mem_cons, List.not_mem_nil, or_false, opF_eq_ofNat, opN_eq_ofNat, opNN_eq_ofNat,
    word_eq_ofNat, Nat.reduceLT]
  omega

/-! The opcode map digit by digit: a mask of R53 keeps a hexadecimal digit or drops it. -/

/-- Two words are equal when their four digits are. -/
theorem eq_iff_digits (a b : Word) :
    a = b ↔ opF a = opF b ∧ opX a = opX b ∧ opY a = opY b ∧ opN a = opN b := by
  refine ⟨fun h => by simp [h], fun ⟨hf, hx, hy, hn⟩ => ?_⟩
  rw [← word4_opX_opY (op := a) hf hn, hx, hy]
  exact word4_opX_opY rfl rfl

theorem opNN_eq_iff_digits (op : Word) (k : Nat) :
    opNN op = BitVec.ofNat 8 k ↔ opY op = BitVec.ofNat 4 (k / 16) ∧ opN op = BitVec.ofNat 4 k := by
  simp only [← BitVec.toNat_inj, toNat_opNN, toNat_opY, toNat_opN, BitVec.toNat_ofNat]
  omega

theorem selects_iff_digits (r : OpcodeRow) (op : Word) : r.selects op = true ↔
    opF op &&& opF r.mask = opF r.bits ∧ opX op &&& opX r.mask = opX r.bits ∧
    opY op &&& opY r.mask = opY r.bits ∧ opN op &&& opN r.mask = opN r.bits := by
  have hand : ∀ i n, (op &&& r.mask).extractLsb' i n = op.extractLsb' i n &&& r.mask.extractLsb' i n :=
    fun i n => BitVec.extractLsb'_and
  rw [OpcodeRow.selects, beq_iff_eq, eq_iff_digits]
  simp only [opF, opX, opY, opN, hand]

theorem opF_ofNat (n : Nat) : opF (BitVec.ofNat 16 n) = BitVec.ofNat 4 (n / 4096) := by
  apply BitVec.eq_of_toNat_eq
  rw [toNat_opF, BitVec.toNat_ofNat, BitVec.toNat_ofNat]
  omega

theorem opX_ofNat (n : Nat) : opX (BitVec.ofNat 16 n) = BitVec.ofNat 4 (n / 256) := by
  apply BitVec.eq_of_toNat_eq
  rw [toNat_opX, BitVec.toNat_ofNat, BitVec.toNat_ofNat]
  omega

theorem opY_ofNat (n : Nat) : opY (BitVec.ofNat 16 n) = BitVec.ofNat 4 (n / 16) := by
  apply BitVec.eq_of_toNat_eq
  rw [toNat_opY, BitVec.toNat_ofNat, BitVec.toNat_ofNat]
  omega

theorem opN_ofNat (n : Nat) : opN (BitVec.ofNat 16 n) = BitVec.ofNat 4 n := by
  apply BitVec.eq_of_toNat_eq
  rw [toNat_opN, BitVec.toNat_ofNat, BitVec.toNat_ofNat]
  omega

/-- R53: no two rows of the map agree on the bits both masks look at. -/
theorem opcodeRows_pairwise_disjoint :
    opcodeRows.Pairwise (fun r r' => r.bits &&& r'.mask ≠ r'.bits &&& r.mask) := by
  decide

/-- The map by the digits of the word: each row asks for the digits its mask keeps. -/
theorem legalWord_iff_digits (op : Word) : legalWord op = true ↔ ∃ r ∈ opcodeRows,
    opF op &&& opF r.mask = opF r.bits ∧ opX op &&& opX r.mask = opX r.bits ∧
    opY op &&& opY r.mask = opY r.bits ∧ opN op &&& opN r.mask = opN r.bits := by
  simp only [legalWord, List.any_eq_true, selects_iff_digits]

/-- R54: the decoding procedure accepts the words the map accepts, family by family. -/
theorem isSome_decode_eq_legalWord (op : Word) : (decode op).isSome = legalWord op := by
  have hkeep (d : Nibble) : d &&& 15#4 = d := BitVec.and_allOnes
  rw [Bool.eq_iff_iff, Option.isSome_iff_ne_none, ne_eq, decode_eq_none_iff, legalWord_iff_digits]
  simp only [opcodeRows, opcodeRows1to9, opcodeRows10to19, opcodeRows20to25, opcodeRows26to34,
    List.cons_append, List.nil_append, List.exists_mem_cons_iff, List.not_mem_nil, opF_ofNat, opX_ofNat, opY_ofNat,
    opN_ofNat]
  rcases nibble_cases (opF op) with h | h | h | h | h | h | h | h | h | h | h | h | h | h | h | h <;>
    simp [h, hkeep, eq_iff_digits op, opNN_eq_iff_digits, opF_ofNat, opX_ofNat, opY_ofNat, opN_ofNat, or_iff_not_imp_left]

/-- A word that selects two rows gives both the bits both masks look at, so the two are one row. -/
theorem row_eq_of_selects {op : Word} {r r' : OpcodeRow} (hr : r ∈ opcodeRows) (hr' : r' ∈ opcodeRows)
    (h : r.selects op = true) (h' : r'.selects op = true) : r = r' := by
  by_contra hne
  have : Std.Symm (fun r r' : OpcodeRow => r.bits &&& r'.mask ≠ r'.bits &&& r.mask) := ⟨fun _ _ hd => hd.symm⟩
  refine opcodeRows_pairwise_disjoint.forall hr hr' hne ?_
  rw [OpcodeRow.selects, beq_iff_eq] at h h'
  rw [← h, ← h', BitVec.and_assoc, BitVec.and_assoc, BitVec.and_comm r.mask]

/-- Settles O3: the procedure and the map accept the same words, and the rows of the map are disjoint. -/
theorem decodeAcceptsExactlyTheWordsOfOneRow : Obligations.DecodeAcceptsExactlyTheWordsOfOneRow :=
  ⟨isSome_decode_eq_legalWord, fun _ _ _ hr hr' h h' => row_eq_of_selects hr hr' h h'⟩

end Sys2Proof
end

section
/-! SUPPORT. What P4 writes (10_state.md R10 to R22, 40_cycle_and_control.md R71): the ways the few instructions that can
end in two ways end, their frames, and the obligation on the parts and the registers an instruction may write. -/

namespace Sys2Proof.Machine

/-- R155: RET on the empty stack. -/
theorem exec_ret_of_nil {s : State} (h : s.stack = []) : exec .ret s = .next s.halt := by
  rw [exec, execRet, h]

/-- R79: RET with a frame. -/
theorem exec_ret_of_cons {s : State} {a : Addr} {rest : List Addr} (h : s.stack = a :: rest) :
    exec .ret s = .next ((s.setStack rest).setPc (a + 2#12)) := by
  rw [exec, execRet, h]

/-- The two ends of RET. -/
theorem exec_ret_next {s t : State} (h : exec .ret s = .next t) :
    (s.stack = [] ∧ t = s.halt) ∨ ∃ a rest, s.stack = a :: rest ∧ t = (s.setStack rest).setPc (a + 2#12) := by
  cases hs : s.stack with
  | nil =>
    rw [exec_ret_of_nil hs] at h
    cases h
    exact .inl ⟨rfl, rfl⟩
  | cons a rest =>
    rw [exec_ret_of_cons hs] at h
    cases h
    exact .inr ⟨a, rest, rfl, rfl⟩

/-- 60_exceptions.md R153: CALL on a full stack. -/
theorem exec_call_of_full {s : State} (h : s.stackFull = true) (nnn : Addr) :
    exec (.call nnn) s = .next (s.raise .stackOverflow (s.pc.setWidth 16)) := if_pos h

/-- R78: CALL with room on the stack. -/
theorem exec_call_of_room {s : State} (h : s.stackFull = false) (nnn : Addr) :
    exec (.call nnn) s = .next ((s.pushFrame s.pc).setPc nnn) := if_neg (ne_true_of_eq_false h)

/-- The two ends of CALL. -/
theorem exec_call_next {nnn : Addr} {s t : State} (h : exec (.call nnn) s = .next t) :
    (s.stackFull = true ∧ t = s.raise .stackOverflow (s.pc.setWidth 16)) ∨
    (s.stackFull = false ∧ t = (s.pushFrame s.pc).setPc nnn) := by
  cases hs : s.stackFull
  · rw [exec_call_of_room hs] at h
    cases h
    exact .inr ⟨rfl, rfl⟩
  · rw [exec_call_of_full hs] at h
    cases h
    exact .inl ⟨rfl, rfl⟩

/-- 44_keypad_and_timers.md R132 to R134: a key test faults before the drain, or drains and skips or not. -/
theorem keyTest_cases (wanted : Bool) (x : Nibble) (s : State) :
    (keySel s.cfg.keyOor (s.reg x) = .bad ∧ keyTest wanted x s = s.raise .badKeyIndex ((s.reg x).setWidth 16)) ∨
    (keySel s.cfg.keyOor (s.reg x) ≠ .bad ∧ keyTest wanted x s =
      s.drain.skipIf ((keySel s.cfg.keyOor (s.reg x)).pressed s.drain.kp == wanted)) := by
  unfold keyTest
  cases h : keySel s.cfg.keyOor (s.reg x) with
  | bad => exact .inl ⟨rfl, rfl⟩
  | key k => exact .inr ⟨by simp, rfl⟩
  | noKey => exact .inr ⟨by simp, rfl⟩

/-- R135: the state at the end of an Fx0A that finds the press of key `k`: the events popped, that press among them, are
applied, the events behind it are queued still, and V[x] is the key. -/
def State.takePress (s : State) (x k : Nibble) (popped after : List KeyEvent) : State :=
  ((((s.setKp (popped.foldl applyKey s.kp)).setKq after).setReg x (k.setWidth 8)).setRs .running).advance

/-- R135: LD Vx, K with a queue of releases. -/
theorem exec_ldVxK_of_releases {s : State} (x : Nibble) (h : ∀ e ∈ s.kq, e.pressed = false) :
    exec (.ldVxK x) s = .next (s.drain.setRs .waitKey) := by
  rw [exec, execLdVxK, awaitPress_releases _ _ h]
  rfl

/-- R135: LD Vx, K with a press queued behind releases. -/
theorem exec_ldVxK_of_press {s : State} (x : Nibble) {k : Nibble} {before after : List KeyEvent}
    (hq : s.kq = before ++ KeyEvent.mk k true :: after) (hb : ∀ e ∈ before, e.pressed = false) :
    exec (.ldVxK x) s = .next (s.takePress x k (before ++ [KeyEvent.mk k true]) after) := by
  rw [exec, execLdVxK, hq, awaitPress_press _ _ _ _ hb]
  rfl

/-- A queue holds releases only, or a first press behind releases. -/
theorem queue_cases (q : List KeyEvent) : (∀ e ∈ q, e.pressed = false) ∨
    ∃ before k after, q = before ++ KeyEvent.mk k true :: after ∧ ∀ e ∈ before, e.pressed = false := by
  rcases awaitPress_cases q State.reset.kp with ⟨h, -⟩ | ⟨before, k, after, hq, hb, -⟩
  · exact .inl h
  · exact .inr ⟨before, k, after, hq, hb⟩

/-- The two ends of LD Vx, K. -/
theorem exec_ldVxK_next {x : Nibble} {s t : State} (h : exec (.ldVxK x) s = .next t) :
    ((∀ e ∈ s.kq, e.pressed = false) ∧ t = s.drain.setRs .waitKey) ∨
    ∃ before k after, s.kq = before ++ KeyEvent.mk k true :: after ∧ (∀ e ∈ before, e.pressed = false) ∧
      t = s.takePress x k (before ++ [KeyEvent.mk k true]) after := by
  rcases queue_cases s.kq with hq | ⟨before, k, after, hq, hb⟩
  · rw [exec_ldVxK_of_releases x hq] at h
    cases h
    exact .inl ⟨hq, rfl⟩
  · rw [exec_ldVxK_of_press x hq hb] at h
    cases h
    exact .inr ⟨before, k, after, hq, hb, rfl⟩

/-! The frames of the shared operations. -/

theorem State.onlyChanges_raise (s : State) (e : Exc) (w : Word) : OnlyChanges [.rs, .fcause, .finfo] s (s.raise e w) :=
  (OnlyChanges.refl _ s).raise (by decide) (by decide) (by decide) e w

theorem State.onlyChanges_drain (s : State) : OnlyChanges [.kp, .kq] s s.drain :=
  ((OnlyChanges.refl _ s).setKp (by decide) _).setKq (by decide) _

theorem State.onlyChanges_takePress (s : State) (x k : Nibble) (popped after : List KeyEvent) :
    OnlyChanges [.v, .kp, .kq, .rs, .pc] s (s.takePress x k popped after) :=
  (((((OnlyChanges.refl _ s).setKp (by decide) _).setKq (by decide) _).setReg (by decide) _ _).setRs
    (by decide) _).setPc (by decide) _

theorem State.onlyChanges_setReg_writeNext (s : State) (r x : Nibble) (a b : Byte) :
    OnlyChanges [.v, .pc] s ((s.setReg r a).writeNext x b) :=
  ((OnlyChanges.refl _ s).setReg (by decide) r a).trans (State.onlyChanges_writeNext _ x b)

theorem State.onlyChanges_storeBytes_advance (s : State) (bs : List Byte) :
    OnlyChanges [.mem, .pc] s (s.storeBytes 0 bs).advance :=
  ((OnlyChanges.refl _ s).storeBytes (by decide) 0 bs).setPc (by decide) _

theorem State.onlyChanges_storeAll (s : State) (bs : List Byte) :
    OnlyChanges [.mem, .pc, .rs, .fcause, .finfo] s (s.storeAll bs) := by
  rcases s.storeAll_cases bs with ⟨a, -, -, h⟩ | h <;> rw [h]
  · exact (s.onlyChanges_raise _ _).mono (by simp)
  · exact (s.onlyChanges_storeBytes_advance bs).mono (by simp)

theorem State.onlyChanges_loadRegs_advance (s : State) (n : Nat) : OnlyChanges [.v, .pc] s (s.loadRegs n).advance :=
  ((OnlyChanges.refl _ s).loadRegs (by decide) n).setPc (by decide) _

theorem State.onlyChanges_drain_skipIf (s : State) (b : Bool) : OnlyChanges [.kp, .kq, .pc] s (s.drain.skipIf b) :=
  (s.onlyChanges_drain.mono (by simp)).trans ((State.onlyChanges_skipIf _ b).mono (by simp))

theorem onlyChanges_keyTest (wanted : Bool) (x : Nibble) (s : State) :
    OnlyChanges [.kp, .kq, .pc, .rs, .fcause, .finfo] s (keyTest wanted x s) := by
  rcases keyTest_cases wanted x s with ⟨-, h⟩ | ⟨-, h⟩ <;> rw [h]
  · exact (s.onlyChanges_raise _ _).mono (by simp)
  · exact (s.onlyChanges_drain_skipIf _).mono (by simp)

theorem State.onlyChanges_drain_setRs (s : State) (r : RunState) : OnlyChanges [.kp, .kq, .rs] s (s.drain.setRs r) :=
  (s.onlyChanges_drain.mono (by simp)).setRs (by decide) r

theorem State.onlyChanges_drawRnd_writeNext (s : State) (x : Nibble) (b : Byte) :
    OnlyChanges [.v, .pc, .rndIndex] s (s.drawRnd.writeNext x b) :=
  ((OnlyChanges.refl _ s).drawRnd (by decide)).trans ((State.onlyChanges_writeNext _ x b).mono (by simp))

theorem State.onlyChanges_setFb_writeNext (s : State) (f : Screen) (x : Nibble) (b : Byte) :
    OnlyChanges [.v, .fb, .pc] s ((s.setFb f).writeNext x b) :=
  ((OnlyChanges.refl _ s).setFb (by decide) f).trans ((State.onlyChanges_writeNext _ x b).mono (by simp))

theorem State.onlyChanges_setDt_advance (s : State) (b : Byte) : OnlyChanges [.dt, .pc] s (s.setDt b).advance :=
  ((OnlyChanges.refl _ s).setDt (by decide) b).setPc (by decide) _

theorem State.onlyChanges_setSt_setSst_readClock (s : State) (b : Byte) (n : Nat) :
    OnlyChanges [.st, .sst, .pc, .nowIndex, .clock] s ((s.setSt b).setSst n).readClock.advance :=
  ((((OnlyChanges.refl _ s).setSt (by decide) b).setSst (by decide) n).readClock (by decide) (by decide)).setPc
    (by decide) _

/-- The parts an instruction may write: everything else is as before, wherever the instruction ends. -/
theorem exec_frame {i : Instr} {s t : State} (h : exec i s = .next t) : OnlyChanges (mayWrite i) s t := by
  cases i <;> simp only [mayWrite]
  case ret =>
    rcases exec_ret_next h with ⟨-, rfl⟩ | ⟨a, rest, -, rfl⟩
    · exact (OnlyChanges.refl _ s).setRs (by decide) _
    · exact ((OnlyChanges.refl _ s).setStack (by decide) _).setPc (by decide) _
  case call nnn =>
    rcases exec_call_next h with ⟨-, rfl⟩ | ⟨-, rfl⟩
    · exact (s.onlyChanges_raise _ _).mono (by simp)
    · exact ((OnlyChanges.refl _ s).setStack (by decide) _).setPc (by decide) _
  case ldVxK x =>
    rcases exec_ldVxK_next h with ⟨-, rfl⟩ | ⟨before, k, after, -, -, rfl⟩
    · exact (s.onlyChanges_drain_setRs _).mono (by simp)
    · exact (s.onlyChanges_takePress x k _ after).mono (by simp)
  all_goals obtain rfl := Host.Outcome.next.inj h
  case cls => exact s.onlyChanges_setFb_advance _
  case jp | jpV0 => exact s.onlyChanges_setPc _
  case seImm | sneImm | seReg | sneReg => exact s.onlyChanges_skipIf _
  case ldImm | addImm | ldReg | orReg | andReg | xorReg | ldVxDt => exact s.onlyChanges_writeNext _ _
  case addReg | subReg | shr | subn | shl => exact s.onlyChanges_setReg_writeNext _ _ _ _
  case ldI | addI | ldF => exact s.onlyChanges_setI_advance _
  case rnd => exact s.onlyChanges_drawRnd_writeNext _ _
  case drw => exact s.onlyChanges_setFb_writeNext _ _ _
  case skp | sknp => exact onlyChanges_keyTest _ _ s
  case ldDtVx => exact s.onlyChanges_setDt_advance _
  case ldStVx => exact s.onlyChanges_setSt_setSst_readClock _ _
  case ldB | ldMemVx => exact s.onlyChanges_storeAll _
  case ldVxMem => exact s.onlyChanges_loadRegs_advance _

/-- Two writes, one after the other, keep every other register. -/
theorem State.regsKeptExcept_setReg_writeNext (s : State) {rs : List Nibble} {r x : Nibble} (hr : r ∈ rs) (hx : x ∈ rs)
    (a b : Byte) : RegsKeptExcept rs s ((s.setReg r a).writeNext x b) :=
  ((RegsKeptExcept.refl _ s).setReg r a hr).setReg x b hx

/-- The registers an instruction may write: every other one is as before. -/
theorem exec_keeps_reg {i : Instr} {s t : State} (h : exec i s = .next t) (r : Nibble) (hr : mayWriteReg i r = false) :
    t.reg r = s.reg r := by
  have hframe : .v ∉ mayWrite i → t.reg r = s.reg r := fun hv => exec_frame h .v hv r
  cases i
  case cls | ret | jp | call | seImm | sneImm | seReg | sneReg | ldI | jpV0 | skp | sknp | ldDtVx | ldStVx | addI | ldF |
      ldB | ldMemVx => exact hframe (by simp [mayWrite])
  case ldVxK x =>
    rcases exec_ldVxK_next h with ⟨-, rfl⟩ | ⟨before, k, after, -, -, rfl⟩
    · rfl
    · exact (RegsKeptExcept.refl [x] s).setReg x (k.setWidth 8) (by simp) r (by simpa [mayWriteReg] using hr)
  all_goals obtain rfl := Host.Outcome.next.inj h
  case ldImm x _ | addImm x _ | ldReg x _ | orReg x _ | andReg x _ | xorReg x _ | rnd x _ | ldVxDt x =>
    exact State.regsKeptExcept_writeNext _ x _ r (by simpa [mayWriteReg] using hr)
  case addReg x _ | subReg x _ | shr x _ | subn x _ | shl x _ =>
    exact s.regsKeptExcept_setReg_writeNext (rs := [x, 15#4]) (by simp) (by simp) _ _ r (by simpa [mayWriteReg] using hr)
  case drw => exact (RegsKeptExcept.refl [15#4] s).setReg 15#4 _ (by simp) r (by simpa [mayWriteReg] using hr)
  case ldVxMem x =>
    have hr' : ¬ r.toNat < x.toNat + 1 := by simpa [mayWriteReg, Nat.lt_succ_iff] using hr
    exact (s.reg_loadRegs _ (by omega) r).trans (if_neg hr')

/-- Settles O25: the frame of the parts and the frame of the registers. -/
theorem instructionsWriteOnlyWhatTheSpecNames : Obligations.InstructionsWriteOnlyWhatTheSpecNames :=
  fun _ _ _ h => ⟨exec_frame h, exec_keeps_reg h⟩

end Sys2Proof.Machine
end

section
/-! SUPPORT. How an instruction ends (40_cycle_and_control.md R71): completed, halted, faulted or blocked, and where a
completed one leaves `pc`; the obligation on the program counter. -/

namespace Sys2Proof.Machine

/-- The instructions of 40_cycle_and_control.md section 2 that send `pc` to a target: R77 to R80. -/
def isTransfer : Instr → Bool
  | .ret | .jp _ | .call _ | .jpV0 _ => true
  | _ => false

/-- The six skips (R81 to R84, 44_keypad_and_timers.md R132, R133). -/
def isSkip : Instr → Bool
  | .seImm _ _ | .sneImm _ _ | .seReg _ _ | .sneReg _ _ | .skp _ | .sknp _ => true
  | _ => false

/-- R71: the instruction completed: RS is as it was, or RUNNING after a wait, and `pc` went on by one instruction, by two
if it was a skip, or to the target of a transfer. -/
def Completes (i : Instr) (s t : State) : Prop :=
  (t.rs = s.rs ∨ t.rs = .running) ∧
  (t.pc = s.pc + 2#12 ∨ (isSkip i = true ∧ t.pc = s.pc + 4#12) ∨ isTransfer i = true)

theorem State.skipIf_completes {i : Instr} (hi : isSkip i = true) (s : State) (b : Bool) : Completes i s (s.skipIf b) := by
  cases b
  · exact ⟨.inl rfl, .inl rfl⟩
  · exact ⟨.inl rfl, .inr (.inl ⟨hi, rfl⟩)⟩

theorem State.rs_pc_loadRegs (s : State) (n : Nat) : (s.loadRegs n).rs = s.rs ∧ (s.loadRegs n).pc = s.pc := by
  obtain ⟨v, hv⟩ := s.loadRegs_eq_withV n
  rw [hv]
  exact ⟨rfl, rfl⟩

theorem State.rs_pc_storeBytes (s : State) (k : Nat) (bs : List Byte) :
    (s.storeBytes k bs).rs = s.rs ∧ (s.storeBytes k bs).pc = s.pc := by
  obtain ⟨m, hm, -⟩ := State.storeBytes_eq_setMem bs s k
  rw [hm]
  exact ⟨rfl, rfl⟩

theorem State.storeAll_ends (s : State) (bs : List Byte) (i : Instr) :
    Completes i s (s.storeAll bs) ∨ ∃ e w, s.storeAll bs = s.raise e w := by
  rcases s.storeAll_cases bs with ⟨a, -, -, h⟩ | h
  · exact .inr ⟨_, _, h⟩
  · obtain ⟨hrs, hpc⟩ := s.rs_pc_storeBytes 0 bs
    rw [h]
    exact .inl ⟨.inl hrs, .inl (congrArg (· + 2#12) hpc)⟩

theorem keyTest_ends (wanted : Bool) (x : Nibble) (s : State) {i : Instr} (hi : isSkip i = true) :
    Completes i s (keyTest wanted x s) ∨ ∃ e w, keyTest wanted x s = s.raise e w := by
  rcases keyTest_cases wanted x s with ⟨-, h⟩ | ⟨-, h⟩
  · exact .inr ⟨_, _, h⟩
  · rw [h]
    exact .inl (s.drain.skipIf_completes hi _)

/-- The four ways P4 ends: NEXT, SKIP or a transfer; HALT; an exception; BLOCK. -/
theorem exec_ends {i : Instr} {s t : State} (h : exec i s = .next t) :
    Completes i s t ∨ (i = .ret ∧ s.stack = [] ∧ t = s.halt) ∨ (∃ e w, t = s.raise e w) ∨
    ∃ x, i = .ldVxK x ∧ t = s.drain.setRs .waitKey := by
  cases i
  case ret =>
    rcases exec_ret_next h with ⟨hs, rfl⟩ | ⟨a, rest, -, rfl⟩
    · exact .inr (.inl ⟨rfl, hs, rfl⟩)
    · exact .inl ⟨.inl rfl, .inr (.inr rfl)⟩
  case call nnn =>
    rcases exec_call_next h with ⟨-, rfl⟩ | ⟨-, rfl⟩
    · exact .inr (.inr (.inl ⟨_, _, rfl⟩))
    · exact .inl ⟨.inl rfl, .inr (.inr rfl)⟩
  case ldVxK x =>
    rcases exec_ldVxK_next h with ⟨-, rfl⟩ | ⟨before, k, after, -, -, rfl⟩
    · exact .inr (.inr (.inr ⟨x, rfl, rfl⟩))
    · exact .inl ⟨.inr rfl, .inl rfl⟩
  all_goals obtain rfl := Host.Outcome.next.inj h
  case jp | jpV0 => exact .inl ⟨.inl rfl, .inr (.inr rfl)⟩
  case seImm | sneImm | seReg | sneReg => exact .inl (s.skipIf_completes rfl _)
  case skp | sknp => exact (keyTest_ends _ _ s rfl).imp_right fun h => .inr (.inl h)
  case ldB | ldMemVx => exact (s.storeAll_ends _ _).imp_right fun h => .inr (.inl h)
  case ldVxMem x =>
    obtain ⟨hrs, hpc⟩ := s.rs_pc_loadRegs (x.toNat + 1)
    exact .inl ⟨.inl hrs, .inl (congrArg (· + 2#12) hpc)⟩
  all_goals exact .inl ⟨.inl rfl, .inl rfl⟩

theorem isTransfer_eq_false {i : Instr} (hret : i ≠ .ret)
    (hjump : ∀ nnn, i ≠ .jp nnn ∧ i ≠ .call nnn ∧ i ≠ .jpV0 nnn) :
    isTransfer i = false := by
  cases i
  case ret => exact absurd rfl hret
  case jp nnn => exact absurd rfl (hjump nnn).1
  case call nnn => exact absurd rfl (hjump nnn).2.1
  case jpV0 nnn => exact absurd rfl (hjump nnn).2.2
  all_goals rfl

theorem isSkip_iff (i : Instr) : isSkip i = true ↔
    (∃ x nn, i = .seImm x nn ∨ i = .sneImm x nn) ∨ (∃ x y, i = .seReg x y ∨ i = .sneReg x y) ∨
      ∃ x, i = .skp x ∨ i = .sknp x := by
  cases i <;> simp [isSkip]

/-- Settles O26: an instruction that completes moves `pc` by 2 or, if it skips, by 4, and the two exceptional ends leave
it. -/
theorem programCounterMovesByTwoOrFour : Obligations.ProgramCounterMovesByTwoOrFour := by
  intro i s t h hret hjump
  have hadd (d : Addr) : (s.pc + d).toNat = (s.pc.toNat + d.toNat) % 4096 := BitVec.toNat_add s.pc d
  rcases exec_ends h with ⟨-, hpc | ⟨hskip, hpc⟩ | htransfer⟩ | ⟨rfl, -⟩ | ⟨e, w, rfl⟩ | ⟨x, -, rfl⟩
  · rw [hpc, hadd]
    exact ⟨.inl rfl, by simp only [BitVec.toNat_ofNat]; omega⟩
  · rw [hpc, hadd]
    exact ⟨.inr (.inl ⟨rfl, (isSkip_iff i).mp hskip⟩), by simp only [BitVec.toNat_ofNat]; omega⟩
  · rw [isTransfer_eq_false hret hjump] at htransfer
    cases htransfer
  · exact absurd rfl hret
  · exact ⟨.inr (.inr ⟨rfl, .inl rfl⟩), rfl⟩
  · exact ⟨.inr (.inr ⟨rfl, .inr rfl⟩), rfl⟩

end Sys2Proof.Machine
end

section
/-! SUPPORT. CALL and RET (40_cycle_and_control.md R78, R79, R86; 60_exceptions.md R153, R155): when the stack is full,
the frames under the newest one, and the obligations on the two instructions. -/

namespace Sys2Proof.Machine

/-- R153: the push would exceed STACK_DEPTH exactly when a finite depth is reached. -/
theorem State.stackFull_iff (s : State) : s.stackFull = true ↔ ∃ d, s.cfg.stackDepth = some d ∧ d ≤ s.sp := by
  unfold State.stackFull
  cases s.cfg.stackDepth <;> simp

theorem State.stackFull_eq_false_iff (s : State) :
    s.stackFull = false ↔ ∀ d, s.cfg.stackDepth = some d → s.sp < d := by
  rw [← Bool.not_eq_true, State.stackFull_iff]
  simp

/-- The state before the newest frame was pushed (10_state.md R14). -/
theorem State.pushFrame_setStack {s : State} {a : Addr} {rest : List Addr} (h : s.stack = a :: rest) :
    (s.setStack rest).pushFrame a = s := by
  cases s
  cases h
  rfl

/-- R79: the frames under the newest one are those of the shorter stack. -/
theorem State.frame_setStack_rest {s : State} {a : Addr} {rest : List Addr} (h : s.stack = a :: rest) {k : Nat}
    (hk : k < rest.length) : (s.setStack rest).frame k = s.frame k := by
  have hne : k ≠ (s.setStack rest).sp := Nat.ne_of_lt hk
  conv_rhs => rw [← s.pushFrame_setStack h, State.frame_pushFrame, if_neg hne]

/-- SP is 0 exactly on the empty stack (10_state.md R14). -/
theorem State.stack_eq_nil_of_sp {s : State} (h : s.sp = 0) : s.stack = [] := List.eq_nil_of_length_eq_zero h

/-- The newest frame is the head of the stack. -/
theorem State.stack_eq_cons_of_frame {s : State} {a : Addr} (h : s.frame (s.sp - 1) = some a) :
    ∃ rest, s.stack = a :: rest := by
  cases hs : s.stack with
  | nil => simp [State.frame, hs] at h
  | cons a' rest =>
    rw [s.frame_top hs] at h
    cases h
    exact ⟨rest, rfl⟩

/-- Settles O30: with room the push is the address of the call, above every older frame. -/
theorem callPushesItsOwnAddress : Obligations.CallPushesItsOwnAddress := by
  intro nnn s hroom
  have hframe (k : Nat) : ((s.pushFrame s.pc).setPc nnn).frame k = if k = s.sp then some s.pc else s.frame k := by
    rw [State.setPc_frame, State.frame_pushFrame]
  refine ⟨_, exec_call_of_room (s.stackFull_eq_false_iff.mpr hroom) nnn, rfl, s.sp_pushFrame s.pc, ?_,
    fun k hk => ?_, ?_⟩
  · rw [hframe, if_pos rfl]
  · rw [hframe, if_neg (Nat.ne_of_lt hk)]
  · exact ((OnlyChanges.refl _ s).setStack (by decide) _).setPc (by decide) _

/-- Settles O31: on a full stack CALL raises the exception and does nothing else. -/
theorem callOnAFullStackOverflows : Obligations.CallOnAFullStackOverflows := by
  intro nnn s d hd hsp
  have hfull : s.stackFull = true := s.stackFull_iff.mpr ⟨d, hd, hsp.ge⟩
  exact ⟨_, exec_call_of_full hfull nnn, rfl, rfl, BitVec.toNat_setWidth_of_le (by decide), s.onlyChanges_raise _ _⟩

/-- Settles O32: RET pops the head of the stack. -/
theorem returnResumesAfterTheCall : Obligations.ReturnResumesAfterTheCall := by
  intro s a _ ha
  obtain ⟨rest, hs⟩ := s.stack_eq_cons_of_frame ha
  have hsp : s.sp = rest.length + 1 := congrArg List.length hs
  refine ⟨_, exec_ret_of_cons hs, BitVec.toNat_add a 2#12, ?_, fun k hk => s.frame_setStack_rest hs hk, ?_⟩
  · rw [hsp]
    rfl
  · exact ((OnlyChanges.refl _ s).setStack (by decide) _).setPc (by decide) _

/-- Settles O34: the frame the CALL pushed is the newest one of the later state, and RET goes on 2 after it. -/
theorem callAndReturnRoundTrip : Obligations.CallAndReturnRoundTrip := by
  intro s t m nnn hroom ht hsp hm
  obtain rfl := Host.Outcome.next.inj ((exec_call_of_room (s.stackFull_eq_false_iff.mpr hroom) nnn).symm.trans ht)
  have hframe : m.frame s.sp = some s.pc := by
    rw [hm, State.setPc_frame, State.frame_pushFrame, if_pos rfl]
  have htop : m.frame (m.sp - 1) = some s.pc := by rwa [hsp]
  obtain ⟨u, hu, hpc, husp, -⟩ := returnResumesAfterTheCall m s.pc (by omega) htop
  exact ⟨u, hu, hframe, by omega, hpc⟩

/-- P5 and P6 do not happen after a halt, an exception or a block (R70). -/
theorem State.finish_of_not_running {s : State} (h : s.rs ≠ .running) : s.finish = s := if_neg h

/-- Settles O33: the halt is the write of RS, and its cycle ends with it. -/
theorem returnOnTheEmptyStackHalts : Obligations.ReturnOnTheEmptyStackHalts := by
  refine ⟨fun s hsp => ?exec, fun s hr htick hd hsp => ?cycle⟩
  case exec =>
    exact ⟨s.halt, exec_ret_of_nil (State.stack_eq_nil_of_sp hsp), rfl, (OnlyChanges.refl _ s).setRs (by decide) _⟩
  case cycle =>
    have hstep : step s = .next s.afterP1.halt := by
      rw [step_of_decode hr htick hd (exec_ret_of_nil (s := s.afterP1) (State.stack_eq_nil_of_sp hsp)),
        State.finish_of_not_running (by simp)]
    exact ⟨s.afterP1.halt, hstep, rfl, rfl, (s.afterP1_frame.mono (by simp)).setRs (by decide) _⟩

end Sys2Proof.Machine
end

section
/-! SUPPORT. Arithmetic, logic, shifts and the random byte (41_load_and_alu.md R95 to R104): the flags as numbers, the two
writes of a flag instruction in their order (decision D4), and the obligations on these instructions. -/

namespace Sys2Proof.Machine

theorem toNat_flagByte (b : Bool) : (flagByte b).toNat = if b = true then 1 else 0 := by
  cases b <;> rfl

theorem toNat_carryFlag (a b : Byte) : (carryFlag a b).toNat = if 256 ≤ a.toNat + b.toNat then 1 else 0 := by
  simp only [carryFlag, toNat_flagByte, decide_eq_true_eq]

theorem toNat_greaterFlag (a b : Byte) : (greaterFlag a b).toNat = if b.toNat < a.toNat then 1 else 0 := by
  simp only [greaterFlag, toNat_flagByte, decide_eq_true_eq]

theorem toNat_lowBitFlag (a : Byte) : (lowBitFlag a).toNat = a.toNat % 2 := by
  simp only [lowBitFlag, toNat_flagByte, BitVec.getLsbD, Nat.testBit_zero, decide_eq_true_eq]
  split <;> omega

theorem toNat_highBitFlag (a : Byte) : (highBitFlag a).toNat = a.toNat / 128 := by
  have := a.isLt
  simp only [highBitFlag, toNat_flagByte, BitVec.getLsbD, Nat.testBit_eq_decide_div_mod_eq, decide_eq_true_eq]
  split <;> omega

/-- A difference of bytes wraps modulo 256. -/
theorem toNat_byte_sub (a b : Byte) : (a - b).toNat = (a.toNat + 256 - b.toNat) % 256 := by
  have := b.isLt
  rw [BitVec.toNat_sub]
  omega

theorem toNat_byte_shiftLeft_one (a : Byte) : (a <<< 1).toNat = 2 * a.toNat % 256 := by
  rw [BitVec.toNat_shiftLeft, Nat.shiftLeft_eq]
  omega

theorem toNat_byte_ushiftRight_one (a : Byte) : (a >>> 1).toNat = a.toNat / 2 := by
  rw [BitVec.toNat_ushiftRight, Nat.shiftRight_eq_div_pow]

/-- A register write to another register is not seen. -/
theorem State.reg_writeNext_of_ne (s : State) {r x : Nibble} (h : r ≠ x) (b : Byte) : (s.writeNext x b).reg r = s.reg r :=
  (s.reg_setReg x r b).trans (if_neg h)

/-- What two register writes and NEXT leave: every other register, and `pc` moved on. -/
theorem State.setReg_writeNext_frame (s : State) {rs : List Nibble} {r x : Nibble} (hr : r ∈ rs) (hx : x ∈ rs) (a b : Byte) :
    RegsKeptExcept rs s ((s.setReg r a).writeNext x b) ∧
    ((s.setReg r a).writeNext x b).pc.toNat = (s.pc.toNat + 2) % 4096 ∧
    OnlyChanges [.v, .pc] s ((s.setReg r a).writeNext x b) :=
  ⟨s.regsKeptExcept_setReg_writeNext hr hx a b, State.toNat_pc_writeNext _ _ _, s.onlyChanges_setReg_writeNext r x a b⟩

/-- Settles O37: the three operations act bit by bit, and nothing else is written. -/
theorem bitwiseOperationsActBitByBit : Obligations.BitwiseOperationsActBitByBit := by
  refine ⟨fun x y s => ?or, fun x y s => ?and, fun x y s => ?xor⟩
  case or =>
    refine ⟨s.writeNext x (s.reg x ||| s.reg y), rfl, fun k _ => ?_, s.regsKeptExcept_writeNext x _,
      s.toNat_pc_writeNext x _, s.onlyChanges_writeNext x _⟩
    rw [State.reg_writeNext_self, BitVec.getLsbD_or]
  case and =>
    refine ⟨s.writeNext x (s.reg x &&& s.reg y), rfl, fun k _ => ?_, s.regsKeptExcept_writeNext x _,
      s.toNat_pc_writeNext x _, s.onlyChanges_writeNext x _⟩
    rw [State.reg_writeNext_self, BitVec.getLsbD_and]
  case xor =>
    refine ⟨s.writeNext x (s.reg x ^^^ s.reg y), rfl, fun k _ => ?_, s.regsKeptExcept_writeNext x _,
      s.toNat_pc_writeNext x _, s.onlyChanges_writeNext x _⟩
    rw [State.reg_writeNext_self, BitVec.getLsbD_xor, Bool.bne_eq_xor]

/-- Settles O38: the sum is written first and the carry last, so VF is the carry even where it was an operand. -/
theorem addSetsTheCarryLast : Obligations.AddSetsTheCarryLast := by
  intro x y s
  refine ⟨_, rfl, fun hx => ?_, ?_, s.setReg_writeNext_frame (by simp) (by simp) _ _⟩
  · rw [State.reg_writeNext_of_ne _ hx, State.reg_setReg_self, BitVec.toNat_add]
  · rw [State.reg_writeNext_self, toNat_carryFlag]

/-- R99, R101: the flag `V[a] > V[b]` is written first; then V[x] takes the difference of the two registers, read again. SUB is
this with `a = x`, SUBN with `b = x`. -/
def State.flagThenSub (s : State) (x a b : Nibble) : State :=
  (s.setReg 15#4 (greaterFlag (s.reg a) (s.reg b))).writeNext x
    ((s.setReg 15#4 (greaterFlag (s.reg a) (s.reg b))).reg a - (s.setReg 15#4 (greaterFlag (s.reg a) (s.reg b))).reg b)

theorem exec_subReg (x y : Nibble) (s : State) : exec (.subReg x y) s = .next (s.flagThenSub x x y) := rfl

theorem exec_subn (x y : Nibble) (s : State) : exec (.subn x y) s = .next (s.flagThenSub x y x) := rfl

/-- The difference: an operand that is VF is the flag just written. -/
theorem State.toNat_reg_flagThenSub (s : State) (x a b : Nibble) {f : Nat}
    (hf : f = if (s.reg b).toNat < (s.reg a).toNat then 1 else 0) :
    ((s.flagThenSub x a b).reg x).toNat =
      ((if a = 15#4 then f else (s.reg a).toNat) + 256 - (if b = 15#4 then f else (s.reg b).toNat)) % 256 := by
  rw [State.flagThenSub, State.reg_writeNext_self, toNat_byte_sub, State.reg_setReg, State.reg_setReg,
    apply_ite BitVec.toNat, apply_ite BitVec.toNat, toNat_greaterFlag, ← hf]

/-- The flag stays unless the difference goes into VF. -/
theorem State.toNat_flag_flagThenSub (s : State) {x : Nibble} (hx : x ≠ 15#4) (a b : Nibble) :
    ((s.flagThenSub x a b).reg 15#4).toNat = if (s.reg b).toNat < (s.reg a).toNat then 1 else 0 := by
  rw [State.flagThenSub, State.reg_writeNext_of_ne _ hx.symm, State.reg_setReg_self, toNat_greaterFlag]

theorem State.flagThenSub_frame (s : State) (x a b : Nibble) :
    RegsKeptExcept [x, 15#4] s (s.flagThenSub x a b) ∧ (s.flagThenSub x a b).pc.toNat = (s.pc.toNat + 2) % 4096 ∧
    OnlyChanges [.v, .pc] s (s.flagThenSub x a b) :=
  s.setReg_writeNext_frame (by simp) (by simp) _ _

/-- Settles O39: SUB is the flag and then the difference `V[x] - V[y]`, by which operands are VF. -/
theorem subtractFlagsStrictlyGreaterFirst : Obligations.SubtractFlagsStrictlyGreaterFirst := by
  intro x y s
  have hdiff := s.toNat_reg_flagThenSub x x y rfl
  have hflag (hx : x ≠ 15#4) := s.toNat_flag_flagThenSub hx x y
  refine ⟨s.flagThenSub x x y, _, exec_subReg x y s, rfl, fun hx hy => ?plain, fun hx hy => ?yIsVF, fun hx hy => ?xIsVF,
    fun hx hy => ?bothVF, s.flagThenSub_frame x x y⟩
  case plain => exact ⟨by rw [hdiff, if_neg hx, if_neg hy], hflag hx⟩
  case yIsVF => exact ⟨by rw [hdiff, if_neg hx, if_pos hy], hflag hx⟩
  case xIsVF => subst hx; rw [hdiff, if_pos rfl, if_neg hy]
  case bothVF => subst hx hy; rw [hdiff, if_pos rfl]; omega

/-- Settles O40: SUBN is the flag and then the difference `V[y] - V[x]`, by which operands are VF. -/
theorem reverseSubtractFlagsStrictlyGreaterFirst : Obligations.ReverseSubtractFlagsStrictlyGreaterFirst := by
  intro x y s
  have hdiff := s.toNat_reg_flagThenSub x y x rfl
  have hflag (hx : x ≠ 15#4) := s.toNat_flag_flagThenSub hx y x
  refine ⟨s.flagThenSub x y x, _, exec_subn x y s, rfl, fun hx hy => ?plain, fun hx hy => ?yIsVF, fun hx hy => ?xIsVF,
    fun hx hy => ?bothVF, s.flagThenSub_frame x y x⟩
  case plain => exact ⟨by rw [hdiff, if_neg hx, if_neg hy], hflag hx⟩
  case yIsVF => exact ⟨by rw [hdiff, if_neg hx, if_pos hy], hflag hx⟩
  case xIsVF => subst hx; rw [hdiff, if_pos rfl, if_neg hy]
  case bothVF => subst hx hy; rw [hdiff, if_pos rfl]; omega

/-- Settles O41: the bit shifted out is written first, so that with x = 15 it is what is shifted. -/
theorem shiftsMoveByOneAndIgnoreY : Obligations.ShiftsMoveByOneAndIgnoreY := by
  refine ⟨fun x y s => ⟨_, rfl, fun hx => ?right, fun hx => ?rightVF,
      s.setReg_writeNext_frame (by simp) (by simp) _ _⟩,
    fun x y s => ⟨_, rfl, fun hx => ?left, fun hx => ?leftVF,
      s.setReg_writeNext_frame (by simp) (by simp) _ _⟩⟩
  case right =>
    rw [State.reg_writeNext_self, toNat_byte_ushiftRight_one, State.reg_setReg, if_neg hx,
      State.reg_writeNext_of_ne _ (Ne.symm hx), State.reg_setReg_self, toNat_lowBitFlag]
    exact ⟨rfl, rfl⟩
  case rightVF =>
    subst hx
    rw [State.reg_writeNext_self, toNat_byte_ushiftRight_one, State.reg_setReg_self, toNat_lowBitFlag]
    omega
  case left =>
    rw [State.reg_writeNext_self, toNat_byte_shiftLeft_one, State.reg_setReg, if_neg hx,
      State.reg_writeNext_of_ne _ (Ne.symm hx), State.reg_setReg_self, toNat_highBitFlag]
    exact ⟨rfl, rfl⟩
  case leftVF =>
    subst hx
    have := (s.reg 15#4).isLt
    rw [State.reg_writeNext_self, toNat_byte_shiftLeft_one, State.reg_setReg_self, toNat_highBitFlag]
    omega

/-- Settles O42: the byte drawn is masked bit by bit, and no masked bit is outside the mask. -/
theorem randomByteIsMasked : Obligations.RandomByteIsMasked := by
  intro x nn s
  refine ⟨s.drawRnd.writeNext x (s.rndByte &&& nn), rfl, fun k _ => ?_, ?_, rfl,
    s.drawRnd.regsKeptExcept_writeNext x _, s.drawRnd.toNat_pc_writeNext x _, s.onlyChanges_drawRnd_writeNext x _⟩
  · rw [State.reg_writeNext_self, BitVec.getLsbD_and]
    rfl
  · rw [State.reg_writeNext_self, BitVec.and_assoc, BitVec.and_not_self]
    exact BitVec.and_zero

/-- Settles O44: each is one write of I followed by NEXT; five times a byte is below 65536, so only the sum can wrap. -/
theorem indexRegisterIsAddedToAndPointedAtAGlyph : Obligations.IndexRegisterIsAddedToAndPointedAtAGlyph := by
  have hwide (b : Byte) : (b.setWidth 16).toNat = b.toNat := BitVec.toNat_setWidth_of_le (by decide)
  refine ⟨fun x s => ⟨(s.setI (s.i + (s.reg x).setWidth 16)).advance, rfl, ?sum, State.toNat_pc_advance _,
      s.onlyChanges_setI_advance _⟩,
    fun x s => ⟨(s.setI (BitVec.ofNat 16 Config.fontStride * (s.reg x).setWidth 16)).advance, rfl, ?glyph,
      State.toNat_pc_advance _, s.onlyChanges_setI_advance _⟩⟩
  case sum => exact (BitVec.toNat_add s.i _).trans (by rw [hwide])
  case glyph =>
    have := (s.reg x).isLt
    have hmul : (BitVec.ofNat 16 Config.fontStride * (s.reg x).setWidth 16).toNat = 5 * (s.reg x).toNat % 65536 := by
      rw [BitVec.toNat_mul, hwide]
      rfl
    exact hmul.trans (by omega)

end Sys2Proof.Machine
end

section
/-! SUPPORT. The instructions that move bytes (42_index_and_memory.md R114 to R117, 20_memory.md R35): the decimal digits,
the frame and the faults of a store, and the obligations on the two stores and the load. -/

namespace Sys2Proof.Machine

/-- R114: the digits as numbers. -/
theorem getElem_bcdDigits (b : Byte) (k : Nat) (h : k < (bcdDigits b).length) :
    (bcdDigits b)[k] = BitVec.ofNat 8
      (if k = 0 then b.toNat / 100 else if k = 1 then b.toNat / 10 % 10 else b.toNat % 10) := by
  have hk : k < 3 := h
  apply BitVec.eq_of_toNat_eq
  interval_cases k <;> simp [bcdDigits, BitVec.toNat_udiv, BitVec.toNat_umod] <;> omega

/-- R114, R115: a store that does not fault leaves its bytes at the effective addresses and goes on. -/
theorem State.storeAll_storesFromI (s : State) (bs : List Byte) (bytes : Nat → Byte) (hlen : bs.length ≤ 4096)
    (hb : ∀ k (h : k < bs.length), bs[k] = bytes k) (hfont : ¬ (s.cfg.fontWrite = .fault ∧ HitsFont s bs.length)) :
    StoresFromI s (s.storeAll bs) bs.length bytes ∧ (s.storeAll bs).pc.toNat = (s.pc.toNat + 2) % 4096 ∧
      OnlyChanges [.mem, .pc] s (s.storeAll bs) := by
  rw [State.storeAll_stores hfont]
  refine ⟨s.storesFromI_storeBytes bs bytes hlen hb, ?_, s.onlyChanges_storeBytes_advance bs⟩
  rw [State.toNat_pc_advance, (s.rs_pc_storeBytes 0 bs).2]

/-- Settles O45: the bytes stored are the three digits. -/
theorem decimalDigitsAreStored : Obligations.DecimalDigitsAreStored := fun x s hfont =>
  ⟨_, rfl, s.storeAll_storesFromI (bcdDigits (s.reg x)) _ (by simp [bcdDigits]) (getElem_bcdDigits (s.reg x)) hfont⟩

theorem length_regsUpTo_le (s : State) (x : Nibble) : (s.regsUpTo x).length ≤ 4096 := by
  have := x.isLt
  rw [State.length_regsUpTo]
  omega

/-- Settles O46: the bytes stored are the registers up to V[x]. -/
theorem registersAreStored : Obligations.RegistersAreStored := by
  intro x s hfont
  have h := s.storeAll_storesFromI (s.regsUpTo x) _ (length_regsUpTo_le s x) (s.getElem_regsUpTo x)
    (by rwa [State.length_regsUpTo])
  rw [State.length_regsUpTo] at h
  exact ⟨_, rfl, h⟩

/-- 60_exceptions.md R154: in mode `fault` a store raises FontWrite at the lowest address in the font region. -/
theorem State.storeAll_faults {s : State} {bs : List Byte} {k : Nat} (hmode : s.cfg.fontWrite = .fault)
    (hk : k < bs.length) (hin : (s.i.toNat + k) % 4096 < 80) (hfirst : ∀ j, j < k → 80 ≤ (s.i.toNat + j) % 4096) :
    s.storeAll bs = s.raise .fontWrite ((ea s.i k).setWidth 16) := by
  rw [State.storeAll, hmode, firstFontAddr_eq_some hk hin hfirst]

/-- Settles O47: both stores are the one store of bytes, which faults before it writes. -/
theorem fontStoreFaultsBeforeWriting : Obligations.FontStoreFaultsBeforeWriting := by
  intro x s i n k hmode hi hk hin hfirst
  have hstore : ∃ bs : List Byte, exec i s = .next (s.storeAll bs) ∧ bs.length = n := by
    rcases hi with ⟨rfl, rfl⟩ | ⟨rfl, rfl⟩
    · exact ⟨_, rfl, rfl⟩
    · exact ⟨_, rfl, s.length_regsUpTo x⟩
  obtain ⟨bs, hx, rfl⟩ := hstore
  rw [State.storeAll_faults hmode hk hin hfirst] at hx
  refine ⟨_, hx, rfl, rfl, ?_, s.onlyChanges_raise _ _⟩
  rw [State.raise_finfo, BitVec.toNat_setWidth_of_le (by decide), toNat_ea]

/-- R117: the registers after LD Vx, [I]. -/
theorem State.reg_loadRegs_advance (s : State) (x k : Nibble) :
    (s.loadRegs (x.toNat + 1)).advance.reg k =
      if k.toNat ≤ x.toNat then s.byteAt (ea s.i k.toNat) else s.reg k := by
  have := x.isLt
  rw [State.advance_eq, State.setPc_reg, State.reg_loadRegs s _ (by omega)]
  simp only [Nat.lt_succ_iff]

/-- Settles O48: each register up to V[x] takes the byte at its offset, the others and everything else stay. -/
theorem registersAreLoaded : Obligations.RegistersAreLoaded := by
  intro x s
  refine ⟨_, rfl, fun k a hk ha => ?_, fun k hk => ?_, ?_, s.onlyChanges_loadRegs_advance _⟩
  · rw [State.reg_loadRegs_advance, if_pos hk, (isEa_iff s k.toNat a).mp ha]
  · rw [State.reg_loadRegs_advance, if_neg (by omega)]
  · rw [State.toNat_pc_advance, (s.rs_pc_loadRegs _).2]

/-- Settles O49: the load reads at each offset the byte the store left there, which is the register since no address falls
where mode `ignore` drops it. -/
theorem storeThenLoadRestoresTheRegisters : Obligations.StoreThenLoadRestoresTheRegisters := by
  intro x s t u hmode ht hi hmem
  have hnofault : ¬ (s.cfg.fontWrite = .fault ∧ HitsFont s (x.toNat + 1)) := by
    rintro ⟨hf, hhit⟩
    exact hmode.elim (fun hr => by simp [hr] at hf) (fun hn => hn hhit)
  obtain ⟨t', ht', ⟨hstored, -⟩, -⟩ := registersAreStored x s hnofault
  obtain rfl := Host.Outcome.next.inj (ht'.symm.trans ht)
  refine ⟨_, rfl, fun k hk => ?_⟩
  have hea : IsEa s k.toNat (ea s.i k.toNat) := toNat_ea s.i k.toNat
  have hkept : ¬ (s.cfg.fontWrite = .ignore ∧ (ea s.i k.toNat).toNat < 80) := by
    rintro ⟨hig, hlt⟩
    exact hmode.elim (fun hr => by simp [hr] at hig) (fun hn => hn ⟨k.toNat, by omega, by rwa [← toNat_ea]⟩)
  rw [State.reg_loadRegs_advance, if_pos hk, hmem, hi, hstored _ k.toNat (by omega) hea, if_neg hkept]
  exact congrArg s.reg (BitVec.ofNat_toNat 4 k)

end Sys2Proof.Machine
end

section
/-! SUPPORT. The draw (43_display.md R121 to R124): its pixels and its flag by the sprite bits of the claims, and the
obligations on one draw and on the same draw twice. -/

namespace Sys2Proof.Machine

/-- R121, R122: the state after DRW Vx, Vy, n. -/
def State.drawn (s : State) (x y n : Nibble) : State :=
  (s.setFb (drawSprite s (startCol (s.reg x)) (startRow (s.reg y)) n.toNat).1).writeNext 15#4
    (flagByte (drawSprite s (startCol (s.reg x)) (startRow (s.reg y)) n.toNat).2)

theorem exec_drw (x y n : Nibble) (s : State) : exec (.drw x y n) s = .next (s.drawn x y n) := rfl

/-- The sprite bit that DRW Vx, Vy, n of this state puts on a pixel. -/
def State.covers (s : State) (x y n : Nibble) (row : Row) (col : Col) : Bool :=
  spriteCovers s (s.reg x).toNat (s.reg y).toNat n.toNat row col

/-- R121: a pixel after the draw. -/
theorem State.getPixel_drawn (s : State) (x y n : Nibble) (row : Row) (col : Col) :
    getPixel (s.drawn x y n).fb row col = (getPixel s.fb row col != s.covers x y n row col) := by
  have hn : n.toNat ≤ 32 := by have := n.isLt; omega
  rw [State.covers, ← rowsCover_eq_spriteCovers]
  exact (drawSprite_spec s (startCol (s.reg x)) (startRow (s.reg y)) n.toNat hn).1 row col

/-- R121: the flag after the draw is 0 or 1. -/
theorem State.toNat_flag_drawn (s : State) (x y n : Nibble) :
    ((s.drawn x y n).reg 15#4).toNat = 0 ∨ ((s.drawn x y n).reg 15#4).toNat = 1 := by
  rw [State.drawn, State.reg_writeNext_self, toNat_flagByte]
  split
  · exact .inr rfl
  · exact .inl rfl

/-- R121: the flag after the draw is the collision. -/
theorem State.toNat_flag_drawn_eq_one_iff (s : State) (x y n : Nibble) : ((s.drawn x y n).reg 15#4).toNat = 1 ↔
    ∃ row col, getPixel s.fb row col = true ∧ s.covers x y n row col = true := by
  have hn : n.toNat ≤ 32 := by have := n.isLt; omega
  simp only [State.covers, ← rowsCover_eq_spriteCovers]
  rw [State.drawn, State.reg_writeNext_self, toNat_flagByte,
    ← (drawSprite_spec s (startCol (s.reg x)) (startRow (s.reg y)) n.toNat hn).2]
  simp

theorem State.regsKeptExcept_drawn (s : State) (x y n : Nibble) : RegsKeptExcept [15#4] s (s.drawn x y n) :=
  (s.setFb _).regsKeptExcept_writeNext 15#4 _

/-- Settles O51: the draw's pixels, flag and frame. -/
theorem drawXorsTheSpriteOntoTheScreen : Obligations.DrawXorsTheSpriteOntoTheScreen := fun x y n s =>
  ⟨s.drawn x y n, exec_drw x y n s, s.getPixel_drawn x y n, s.toNat_flag_drawn x y n, s.toNat_flag_drawn_eq_one_iff x y n,
    s.regsKeptExcept_drawn x y n, State.toNat_pc_writeNext _ _ _, s.onlyChanges_setFb_writeNext _ _ _⟩

/-- R124: a draw with x and y not VF leaves what the same draw reads as it was, so it puts the same bits. -/
theorem State.covers_drawn (s : State) {x y : Nibble} (hx : x ≠ 15#4) (hy : y ≠ 15#4) (n : Nibble) :
    (s.drawn x y n).covers x y n = s.covers x y n := by
  have hregx : (s.drawn x y n).reg x = s.reg x := s.regsKeptExcept_drawn x y n x (by simpa using hx)
  have hregy : (s.drawn x y n).reg y = s.reg y := s.regsKeptExcept_drawn x y n y (by simpa using hy)
  unfold State.covers
  rw [hregx, hregy]
  rfl

/-- Settles O52: a bit XORed onto a pixel twice is gone, and a pixel is on under a 1 before the second draw exactly when
the first turned it on. -/
theorem drawTwiceRestoresTheScreen : Obligations.DrawTwiceRestoresTheScreen := by
  intro x y n s hx hy
  refine ⟨s.drawn x y n, (s.drawn x y n).drawn x y n, exec_drw x y n s, exec_drw x y n _, fun row col => ?_, ?_⟩
  · rw [State.getPixel_drawn, s.covers_drawn hx hy, State.getPixel_drawn]
    cases s.covers x y n row col <;> simp
  · rw [State.toNat_flag_drawn_eq_one_iff, s.covers_drawn hx hy]
    refine exists_congr fun row => exists_congr fun col => ?_
    rw [State.getPixel_drawn]
    cases s.covers x y n row col <;> simp

end Sys2Proof.Machine
end

section
/-! SUPPORT. The keypad instructions and those that set the timers (44_keypad_and_timers.md R131 to R136, R140, R141): which
key a byte selects, what a press taken leaves, and the obligations on SKP, SKNP, LD Vx, K, LD DT, Vx and LD ST, Vx. -/

namespace Sys2Proof.Machine

/-- R134: the operand is bad above 15 in mode `fault` and nowhere else. -/
theorem keySel_eq_bad_iff (m : KeyIndexMode) (b : Byte) : keySel m b = .bad ↔ 15 < b.toNat ∧ m = .fault := by
  unfold keySel
  split
  · simp; omega
  · cases m <;> simp; omega

/-- R134: what the test of a good operand reads. -/
theorem keySel_pressed {m : KeyIndexMode} {b : Byte} (hgood : ¬ (15 < b.toNat ∧ m = .fault)) (kp : Vector Bool 16) :
    (keySel m b).pressed kp =
      if 15 < b.toNat ∧ m = .released then false else keyDown kp (BitVec.ofNat 4 (b.toNat % 16)) := by
  have hkey : b.setWidth 4 = BitVec.ofNat 4 (b.toNat % 16) := by
    apply BitVec.eq_of_toNat_eq
    rw [BitVec.toNat_setWidth, BitVec.toNat_ofNat]
    omega
  unfold keySel
  split
  · rw [if_neg (by omega), ← hkey]
    rfl
  · cases m
    case fault => exact absurd ⟨by omega, rfl⟩ hgood
    case mask => simp [KeySel.pressed, hkey]
    case released => simp [KeySel.pressed]; omega

/-- R132 to R134: a key test with a good operand is the drain and then the skip. -/
theorem keyTest_of_good {x : Nibble} {s : State} (hgood : ¬ (15 < (s.reg x).toNat ∧ s.cfg.keyOor = .fault))
    (wanted : Bool) :
    keyTest wanted x s = s.drain.skipIf ((keySel s.cfg.keyOor (s.reg x)).pressed s.drain.kp == wanted) := by
  rcases keyTest_cases wanted x s with ⟨hbad, -⟩ | ⟨-, h⟩
  · exact absurd ((keySel_eq_bad_iff _ _).mp hbad) hgood
  · exact h

theorem State.skipIf_kp (s : State) (b : Bool) : (s.skipIf b).kp = s.kp := by
  rw [State.skipIf_eq, State.setPc_kp]

theorem State.skipIf_kq (s : State) (b : Bool) : (s.skipIf b).kq = s.kq := by
  rw [State.skipIf_eq, State.setPc_kq]

/-- Settles O53: both drain, and then skip by the same reading of the latch, SKP when it is down and SKNP when it is not. -/
theorem keySkipsDrainThenTest : Obligations.KeySkipsDrainThenTest := by
  intro x s hgood
  have hlatch (b : Bool) (k : Nibble) : keyDown (s.drain.skipIf b).kp k = LatchAfter s s.kq k := by
    rw [State.skipIf_kp, State.keyDown_drain]
  have hdown := keySel_pressed hgood s.drain.kp
  rw [State.keyDown_drain] at hdown
  have hskp : exec (.skp x) s = .next _ := congrArg Host.Outcome.next (keyTest_of_good hgood true)
  have hsknp : exec (.sknp x) s = .next _ := congrArg Host.Outcome.next (keyTest_of_good hgood false)
  refine ⟨_, _, _, hskp, hsknp, hdown, s.drain.skipIf_kq _, s.drain.skipIf_kq _,
    fun k => ⟨hlatch _ k, hlatch _ k⟩, ?skp, ?sknp, s.onlyChanges_drain_skipIf _, s.onlyChanges_drain_skipIf _⟩
  case skp =>
    rw [State.toNat_pc_skipIf]
    simp only [beq_true]
    rfl
  case sknp =>
    rw [State.toNat_pc_skipIf]
    cases (keySel s.cfg.keyOor (s.reg x)).pressed s.drain.kp <;> rfl

/-- Settles O54: a bad operand raises the exception before the drain. -/
theorem keyIndexAboveFifteenFaults : Obligations.KeyIndexAboveFifteenFaults := by
  intro x s i hi habove hmode
  have hraise (wanted : Bool) : keyTest wanted x s = s.raise .badKeyIndex ((s.reg x).setWidth 16) := by
    rcases keyTest_cases wanted x s with ⟨-, h⟩ | ⟨hgood, -⟩
    · exact h
    · exact absurd ((keySel_eq_bad_iff _ _).mpr ⟨habove, hmode⟩) hgood
  have hx : exec i s = .next (s.raise .badKeyIndex ((s.reg x).setWidth 16)) := by
    rcases hi with rfl | rfl
    · exact congrArg Host.Outcome.next (hraise true)
    · exact congrArg Host.Outcome.next (hraise false)
  exact ⟨_, hx, rfl, rfl, BitVec.toNat_setWidth_of_le (by decide), s.onlyChanges_raise _ _⟩

@[simp] theorem State.toNat_reg_takePress (s : State) (x k : Nibble) (popped after : List KeyEvent) :
    ((s.takePress x k popped after).reg x).toNat = k.toNat := by
  have : (s.takePress x k popped after).reg x = k.setWidth 8 := State.reg_setReg_self _ x _
  rw [this, BitVec.toNat_setWidth_of_le (by decide)]

theorem State.regsKeptExcept_takePress (s : State) (x k : Nibble) (popped after : List KeyEvent) :
    RegsKeptExcept [x] s (s.takePress x k popped after) :=
  (RegsKeptExcept.refl [x] s).setReg x (k.setWidth 8) (by simp)

theorem State.keyDown_takePress (s : State) (x k : Nibble) (popped after : List KeyEvent) (j : Nibble) :
    keyDown (s.takePress x k popped after).kp j = LatchAfter s popped j :=
  keyDown_foldl popped s.kp j

/-- Settles O55: the first press is taken. -/
theorem firstQueuedPressIsTaken : Obligations.FirstQueuedPressIsTaken := fun x k s _ _ hq hb =>
  ⟨_, exec_ldVxK_of_press x hq hb, s.toNat_reg_takePress x k _ _, s.regsKeptExcept_takePress x k _ _, rfl,
    s.keyDown_takePress x k _ _, rfl, BitVec.toNat_add s.pc 2#12, s.onlyChanges_takePress x k _ _⟩

/-- Settles O56: with releases only the instruction is the drain and the wait. -/
theorem noQueuedPressBlocks : Obligations.NoQueuedPressBlocks := fun x s hq =>
  ⟨_, exec_ldVxK_of_releases x hq, rfl, rfl, s.keyDown_drain, s.onlyChanges_drain_setRs _⟩

/-- Settles O58: P4 comes after the decrement of its cycle, and P5 and P6 leave DT to the P1 of the next. -/
theorem delayTimerIsSetAfterItsDecrement : Obligations.DelayTimerIsSetAfterItsDecrement := by
  refine ⟨fun x s => ⟨_, rfl, rfl, State.toNat_pc_advance _, s.onlyChanges_setDt_advance _⟩,
    fun x s hr htick hd => ?cycle⟩
  case cycle =>
    have hdt : (s.afterP1.setDt (s.afterP1.reg x)).advance.finish.dt = s.reg x := State.finish_dt _
    exact ⟨_, step_of_decode hr htick hd rfl, hdt, by rw [State.toNat_afterP1_dt, hdt]⟩

/-- Settles O59: the clock is read once, whatever V[x] is, and the reading is SST. -/
theorem soundTimerIsSetWithItsTimestamp : Obligations.SoundTimerIsSetWithItsTimestamp := fun _ s =>
  ⟨_, rfl, rfl, rfl, rfl, rfl, State.toNat_pc_advance _, s.onlyChanges_setSt_setSst_readClock _ _⟩

end Sys2Proof.Machine
end

section
/-! SUPPORT. Reset (70_reset_and_hazards.md R180, R181; 20_memory.md R33; 10_state.md R25): when it is refused, the memory
it leaves, and the obligations on the reset state and on the reset move. -/

namespace Sys2Proof.Machine

/-- R180: the state reset leaves with given parameters and image. -/
def State.booted (cfg : Params) (image : List Byte) : State :=
  { State.reset with cfg := cfg, mem := bootMemory cfg.font image }

/-- R180 in the middle of a run: the state reset leaves, with what is outside the run carried on (log 19). -/
def State.rebooted (s : State) (image : List Byte) (r : List EnvMove) : State :=
  { State.booted s.cfg image with
    script := r, rndIndex := s.rndIndex, nowIndex := s.nowIndex, clock := s.clock, tickIndex := s.tickIndex }

/-- R181: the images reset accepts. -/
theorem legalImage_iff (image : List Byte) : legalImage image = true ↔ image.length ≤ 3584 := decide_eq_true_iff

theorem State.boot_of_le {image : List Byte} (h : image.length ≤ 3584) (cfg : Params) :
    State.boot cfg image = some (State.booted cfg image) :=
  if_pos ((legalImage_iff image).mpr h)

theorem State.boot_of_gt {image : List Byte} (h : 3584 < image.length) (cfg : Params) : State.boot cfg image = none :=
  if_neg (fun hl => absurd ((legalImage_iff image).mp hl) (by omega))

/-- The step of a reset with an image that fits. -/
theorem step_of_reset_le {s : State} {image : List Byte} {r : List EnvMove} (hs : s.script = .reset image :: r)
    (h : image.length ≤ 3584) : step s = .next (s.rebooted image r) := by
  rw [step_of_reset hs, State.resetMove, State.boot_of_le h]
  rfl

/-- The step of a reset with an image that does not fit (decision D21). -/
theorem step_of_reset_gt {s : State} {image : List Byte} {r : List EnvMove} (hs : s.script = .reset image :: r)
    (h : 3584 < image.length) : step s = .refused .imageTooLong := by
  rw [step_of_reset hs, State.resetMove, State.boot_of_gt h]

/-- Settles O21: neither the reset nor the step of the reset gives a state. -/
theorem overlongImageIsRefused : Obligations.OverlongImageIsRefused := fun _ cfg _ _ h hs =>
  ⟨State.boot_of_gt h cfg, step_of_reset_gt hs h⟩

/-- Settles O22: the state of the reset move is the booted one but for the five fields outside the run. -/
theorem resetMoveKeepsNothingOfTheRun : Obligations.ResetMoveKeepsNothingOfTheRun := by
  intro s image r hs h
  refine ⟨_, _, State.boot_of_le h s.cfg, step_of_reset_le hs h, rfl, rfl, rfl, rfl, rfl, fun p hp => ?_⟩
  have hsame := Part.Same.refl p (State.booted s.cfg image)
  cases p
  case script | clock | nowIndex | rndIndex | tickIndex => simp at hp
  all_goals exact hsame

/-- 20_memory.md R33: from 0x050 on a byte that is not listed is 0. -/
theorem unlisted_eq_zero {a : Nat} (h : 80 ≤ a) : Memory.unlisted a = 0#8 :=
  List.getD_eq_default _ _ h

/-- R33: the font, the zeros up to 0x1FF, the image and the zeros behind it. -/
theorem read_bootMemory (font : Vector Byte Config.fontSize) (image : List Byte) (a : Nat) :
    Memory.read (bootMemory font image) a =
      if 0x200 ≤ a then image.getD (a - 0x200) 0#8 else font.toList.getD a (Memory.unlisted a) := by
  have hprog : Config.progBase.toNat = 0x200 := rfl
  have hfont : Memory.read (Memory.writeFrom [] 0 font.toList) a = font.toList.getD a (Memory.unlisted a) := by
    rw [Memory.read_writeFrom, if_pos (Nat.zero_le a)]
    rfl
  rw [bootMemory, Memory.read_writeFrom, hfont, hprog]
  split
  · have hlen : font.toList.length ≤ a := by rw [Vector.length_toList, Config.fontSize]; omega
    rw [List.getD_eq_default font.toList _ hlen, unlisted_eq_zero (by omega)]
  · rfl

theorem wf_bootMemory (font : Vector Byte Config.fontSize) {image : List Byte} (h : image.length ≤ 3584) :
    Memory.wf (bootMemory font image) = true := by
  have hprog : Config.progBase.toNat = 0x200 := rfl
  refine Memory.wf_writeFrom image (by rw [hprog, Config.memSize]; omega) (Memory.wf_writeFrom font.toList ?_ rfl)
  rw [Vector.length_toList]
  decide

/-- Settles O20: the fields of the booted state, and its memory by the three ranges of addresses. -/
theorem resetLeavesTheTabledValues : Obligations.ResetLeavesTheTabledValues := by
  intro cfg image h
  have hbyte (a : Addr) : (State.booted cfg image).byteAt a =
      if 0x200 ≤ a.toNat then image.getD (a.toNat - 0x200) 0#8
      else cfg.font.toList.getD a.toNat (Memory.unlisted a.toNat) := read_bootMemory cfg.font image a.toNat
  refine ⟨State.booted cfg image, State.boot_of_le h cfg, rfl, ?regs, rfl, rfl, rfl, getPixel_blankScreen, rfl, rfl,
    ?keys, rfl, rfl, rfl, fun a ha => ?font, fun a hlo hhi => ?zeros, fun a ha => ?image⟩
  case regs => exact fun r => Vector.getElem_replicate r.isLt
  case keys => exact fun k => Vector.getElem_replicate k.isLt
  case font =>
    rw [hbyte, if_neg (by omega), List.getD_eq_getElem _ _ (by rw [Vector.length_toList]; exact ha)]
    exact Vector.getElem_toList _
  case zeros =>
    have hlen : cfg.font.toList.length ≤ a.toNat := by rw [Vector.length_toList]; exact hlo
    rw [hbyte, if_neg (by omega), List.getD_eq_default _ _ hlen, unlisted_eq_zero hlo]
  case image => rw [hbyte, if_pos ha]

/-- A state with the reset value of every field of the run, and with canonical memory, meets the invariant: nothing waits,
nothing sounds, the stack is empty, and SST is 0 (log 6). -/
theorem inv_of_reset_values (cfg : Params) {mem : List Host.Cell} (script : List EnvMove) (rnd now clock tick : Nat)
    (hmem : Memory.wf mem = true) : State.Inv
      { State.reset with
        cfg := cfg, mem := mem, script := script, rndIndex := rnd, nowIndex := now, clock := clock, tickIndex := tick } where
  memWf := hmem
  sstPast := Nat.zero_le clock
  waitAtKey := fun h => by cases h
  depth := fun d _ => Nat.zero_le d
  quiet := fun _ => rfl
  cause := fun h => by cases h
  sounding := fun h => absurd h (Nat.lt_irrefl 0)
  playOn := fun h => by cases h
  pauseOff := fun _ => rfl

/-- Settles O24: reset and every boot leave the reset values and canonical memory. -/
theorem resetMeetsTheInvariant : Obligations.ResetMeetsTheInvariant := by
  refine ⟨inv_of_reset_values Params.default [] 0 0 0 0 rfl, fun cfg image s h => ?_⟩
  rcases Nat.lt_or_ge 3584 image.length with hlen | hlen
  · rw [State.boot_of_gt hlen] at h
    cases h
  · rw [State.boot_of_le hlen] at h
    cases h
    exact inv_of_reset_values cfg [] 0 0 0 0 (wf_bootMemory cfg.font hlen)

end Sys2Proof.Machine
end

section
/-! SUPPORT. Everything a step can do, said once (40_cycle_and_control.md R70, R72; 60_exceptions.md R163): what a move
finds, and one kind of step for each thing the machine does with it. -/

namespace Sys2Proof.Machine

/-- The state a key event finds: the strobes of the step before over, the move taken off the script, the event at the end
of KQ (60_exceptions.md R163). -/
def State.atKey (s : State) (e : KeyEvent) (r : List EnvMove) : State := (s.beginStep.setScript r).setKq (s.kq ++ [e])

/-- What a tick or a key event finds. -/
inductive Finds (s : State) : State → Prop
  | tick (h : s.ticksNext) : Finds s s.atTick
  | key {e : KeyEvent} {r : List EnvMove} (h : s.script = .key e :: r) : Finds s (s.atKey e r)

/-- What a move finds differs from the state before it in the strobes, which are over, the script, which is one move
shorter, the queue and the count of ticks, which does not fall. -/
theorem Finds.eq {s u : State} (h : Finds s u) : ∃ q n, s.tickIndex ≤ n ∧
    u = { s with strobes := Strobes.none, script := s.script.tail, kq := q, tickIndex := n } := by
  cases h with
  | tick => exact ⟨_, _, Nat.le_succ _, rfl⟩
  | key h => exact ⟨_, s.tickIndex, Nat.le_refl _, by rw [h]; rfl⟩

/-- R163: an event that is only queued changes the queue, and the strobes and the script as every step does. -/
theorem State.atKey_onlyChanges (s : State) (e : KeyEvent) (r : List EnvMove) :
    OnlyChanges [.kq, .strobes, .script] s (s.atKey e r) :=
  (((OnlyChanges.refl _ s).setStrobes (by decide) _).setScript (by decide) r).setKq (by decide) _

theorem Finds.frame {s u : State} (hf : Finds s u) : OnlyChanges [.strobes, .script, .kq, .tickIndex] s u := by
  cases hf with
  | tick => exact s.atTick_onlyChanges
  | key => exact (s.atKey_onlyChanges _ _).mono (by simp)

/-- A move does not change the run state before the machine acts on it. -/
theorem Finds.rs_eq {s u : State} (hf : Finds s u) : u.rs = s.rs := hf.frame .rs (by decide)

/-- The strobes of the step before are over (log 18). -/
theorem Finds.strobes_eq {s u : State} (hf : Finds s u) : u.strobes = Strobes.none := by
  obtain ⟨q, n, -, rfl⟩ := hf.eq
  rfl

/-- R135, R137: a wait with releases queued, or with nothing queued, applies them and goes on. -/
theorem resumeWait_of_releases {s : State} (hr : s.rs = .waitKey) (h : ∀ e ∈ s.kq, e.pressed = false) :
    resumeWait s = .next (s.drain.setRs .waitKey) := by
  rcases resumeWait_queue s hr with ⟨-, hw⟩ | ⟨before, k, after, hq, -, -⟩
  · exact hw
  · exact absurd (h ⟨k, true⟩ (by simp [hq])) (by simp)

/-- R135: a wait with a press queued takes it, and completes its cycle. -/
theorem resumeWait_of_press {s : State} {k : Nibble} {before after : List KeyEvent}
    (hq : s.kq = before ++ KeyEvent.mk k true :: after) (hb : ∀ e ∈ before, e.pressed = false) :
    resumeWait s =
      .next (s.takePress (opX s.fetch) k (before ++ [KeyEvent.mk k true]) after).finish := by
  rcases resumeWait_cases s with ⟨hempty, -⟩ | ⟨-, t, ht, hw⟩
  · rw [hempty] at hq
    exact absurd hq.symm (by simp)
  · obtain rfl := Host.Outcome.next.inj ((exec_ldVxK_of_press _ hq hb).symm.trans ht)
    exact hw

/-- A step on a key event outside a wait. -/
theorem step_of_key_queued {s : State} {e : KeyEvent} {r : List EnvMove} (h : s.script = .key e :: r)
    (hr : s.rs ≠ .waitKey) : step s = .next (s.atKey e r) := by
  have hr' : (s.beginStep.setScript r).rs ≠ .waitKey := hr
  rw [step_of_key h]
  unfold keyMove
  split
  · exact absurd ‹_› hr'
  · rfl

/-- A step of a waiting machine resumes the wait from what the move finds. -/
theorem step_of_wait {s u : State} (hf : Finds s u) (hr : s.rs = .waitKey) : step s = resumeWait u := by
  cases hf with
  | tick h => exact step_of_waiting hr h
  | @key e r h =>
    have hr' : (s.beginStep.setScript r).rs = .waitKey := hr
    rw [step_of_key h, keyMove, hr']
    rfl

/-- A tick of a stopped machine (log 15). -/
theorem step_of_stopped {s : State} (h : s.ticksNext) (hr : s.rs = .halted ∨ s.rs = .fatal) : step s = .next s.atTick := by
  rw [step_of_tick h]
  unfold tickMove
  rw [State.atTick_rs]
  rcases hr with hr | hr <;> rw [hr]

/-- A cycle of an illegal word. -/
theorem step_of_illegal {s : State} (h : s.ticksNext) (hr : s.rs = .running) (hd : decode s.fetch = none) :
    step s = .next (s.afterP1.raise .illegalOpcode s.fetch) := by
  rw [step_of_cycle hr h, runCycle_of_illegal (by rwa [State.afterP1_fetch]), State.afterP1_fetch]

/-- The kinds of step, each with its outcome. -/
inductive StepKind (s : State) : Host.Outcome State Fault Refusal → Prop
  /-- a cycle of a word of no row -/
  | illegal (h : s.ticksNext) (hr : s.rs = .running) (hd : decode s.fetch = none) :
      StepKind s (.next (s.afterP1.raise .illegalOpcode s.fetch))
  /-- a cycle of an instruction -/
  | cycle {i : Instr} {t : State} (h : s.ticksNext) (hr : s.rs = .running) (hd : decode s.fetch = some i)
      (hx : exec i s.afterP1 = .next t) : StepKind s (.next t.finish)
  /-- a tick of a stopped machine -/
  | stopped (h : s.ticksNext) (hr : s.rs = .halted ∨ s.rs = .fatal) : StepKind s (.next s.atTick)
  /-- a key event outside a wait -/
  | queued {e : KeyEvent} {r : List EnvMove} (h : s.script = .key e :: r) (hr : s.rs ≠ .waitKey) :
      StepKind s (.next (s.atKey e r))
  /-- a wait that finds no press -/
  | waits {u : State} (hf : Finds s u) (hr : s.rs = .waitKey) (hq : ∀ e ∈ u.kq, e.pressed = false) :
      StepKind s (.next (u.drain.setRs .waitKey))
  /-- a wait that finds a press -/
  | resumes {u : State} {k : Nibble} {before after : List KeyEvent} (hf : Finds s u) (hr : s.rs = .waitKey)
      (hq : u.kq = before ++ KeyEvent.mk k true :: after) (hb : ∀ e ∈ before, e.pressed = false) :
      StepKind s (.next (u.takePress (opX u.fetch) k (before ++ [KeyEvent.mk k true]) after).finish)
  /-- a reset with an image that fits -/
  | rebooted {image : List Byte} {r : List EnvMove} (h : s.script = .reset image :: r) (hlen : image.length ≤ 3584) :
      StepKind s (.next (s.rebooted image r))
  /-- a reset with an image that does not fit -/
  | refused {image : List Byte} {r : List EnvMove} (h : s.script = .reset image :: r) (hlen : 3584 < image.length) :
      StepKind s (.refused .imageTooLong)

/-- A step of a waiting machine is of one of the two kinds of a wait. -/
theorem stepKind_of_wait {s u : State} (hf : Finds s u) (hr : s.rs = .waitKey) : StepKind s (step s) := by
  rw [step_of_wait hf hr]
  rcases queue_cases u.kq with hq | ⟨before, k, after, hq, hb⟩
  · rw [resumeWait_of_releases (hf.rs_eq.trans hr) hq]
    exact .waits hf hr hq
  · rw [resumeWait_of_press hq hb]
    exact .resumes hf hr hq hb

/-- Every step is of one of the kinds. -/
theorem stepKind (s : State) : StepKind s (step s) := by
  rcases s.move_cases with h | ⟨e, r, h⟩ | ⟨image, r, h⟩
  · cases hr : s.rs
    case running =>
      cases hd : decode s.fetch with
      | none =>
        rw [step_of_illegal h hr hd]
        exact .illegal h hr hd
      | some i =>
        obtain ⟨t, hx⟩ := exec_isNext i s.afterP1
        rw [step_of_decode hr h hd hx]
        exact .cycle h hr hd hx
    case waitKey => exact stepKind_of_wait (.tick h) hr
    case halted =>
      rw [step_of_stopped h (.inl hr)]
      exact .stopped h (.inl hr)
    case fatal =>
      rw [step_of_stopped h (.inr hr)]
      exact .stopped h (.inr hr)
  · by_cases hr : s.rs = .waitKey
    · exact stepKind_of_wait (.key h) hr
    · rw [step_of_key_queued h hr]
      exact .queued h hr
  · rcases Nat.lt_or_ge 3584 image.length with hlen | hlen
    · rw [step_of_reset_gt h hlen]
      exact .refused h hlen
    · rw [step_of_reset_le h hlen]
      exact .rebooted h hlen

/-- The kinds of a step that answers a next state. -/
theorem stepKind_of_next {s t : State} (h : step s = .next t) : StepKind s (.next t) := h ▸ stepKind s

/-- Settles O18: of the kinds of step only the reset with an image over 3584 bytes answers no next state. -/
theorem stepStopsOnlyForAnOverlongImage : Obligations.StepStopsOnlyForAnOverlongImage := by
  intro s
  have hk := stepKind s
  generalize hs : step s = o at hk
  cases hk with
  | illegal | cycle | stopped | queued | waits | resumes | rebooted => exact .inl ⟨_, rfl⟩
  | refused h hlen => exact .inr ⟨_, _, h, hlen, rfl⟩

/-! What a step keeps of the fields outside the run. -/

/-- `t` has the parameters and the script of `s`, and no earlier clock and counters. -/
structure Onward (s t : State) : Prop where
  cfg : t.cfg = s.cfg
  script : t.script = s.script
  clock : s.clock ≤ t.clock
  nowIndex : s.nowIndex ≤ t.nowIndex
  rndIndex : s.rndIndex ≤ t.rndIndex
  tickIndex : s.tickIndex ≤ t.tickIndex

theorem Onward.trans {s t u : State} (h : Onward s t) (h' : Onward t u) : Onward s u where
  cfg := h'.cfg.trans h.cfg
  script := h'.script.trans h.script
  clock := h.clock.trans h'.clock
  nowIndex := h.nowIndex.trans h'.nowIndex
  rndIndex := h.rndIndex.trans h'.rndIndex
  tickIndex := h.tickIndex.trans h'.tickIndex

theorem Onward.refl (s : State) : Onward s s := ⟨rfl, rfl, le_rfl, le_rfl, le_rfl, le_rfl⟩

/-- A change of other parts only. -/
theorem Onward.of_frame {ps : List Part} {s t : State} (h : OnlyChanges ps s t)
    (hps : ∀ p ∈ ps, p ∉ [.cfg, .script, .clock, .nowIndex, .rndIndex, .tickIndex]) : Onward s t := by
  have hkept (p : Part) (hp : p ∈ [Part.cfg, .script, .clock, .nowIndex, .rndIndex, .tickIndex]) : p.Same s t :=
    h p (fun hin => hps p hin hp)
  exact ⟨hkept .cfg (by decide), hkept .script (by decide), (hkept .clock (by decide)).ge,
    (hkept .nowIndex (by decide)).ge, (hkept .rndIndex (by decide)).ge, (hkept .tickIndex (by decide)).ge⟩

/-- 60_exceptions.md R164: a reading of the clock is no earlier than the last one. -/
theorem State.clock_le_now (s : State) : s.clock ≤ s.now := Nat.le_add_right _ _

theorem exec_onward {i : Instr} {s t : State} (h : exec i s = .next t) : Onward s t := by
  cases i
  case ldStVx =>
    obtain rfl := Host.Outcome.next.inj h
    exact ⟨rfl, rfl, s.clock_le_now, Nat.le_succ _, le_rfl, le_rfl⟩
  case rnd =>
    obtain rfl := Host.Outcome.next.inj h
    exact ⟨rfl, rfl, le_rfl, le_rfl, Nat.le_succ _, le_rfl⟩
  all_goals exact .of_frame (exec_frame h) (by simp [mayWrite])

theorem State.onward_audio (s : State) : Onward s s.audio := by
  rcases s.audio_cases with ⟨-, -, h⟩ | ⟨-, -, h⟩ | ⟨-, -, h⟩ | ⟨-, -, -, h⟩ | ⟨-, -, -, h⟩ <;> rw [h]
  · exact .refl s
  · exact ⟨rfl, rfl, le_rfl, le_rfl, le_rfl, le_rfl⟩
  · exact .refl s
  · exact ⟨rfl, rfl, s.clock_le_now, Nat.le_succ _, le_rfl, le_rfl⟩
  · exact ⟨rfl, rfl, s.clock_le_now, Nat.le_succ _, le_rfl, le_rfl⟩

theorem State.onward_finish (s : State) : Onward s s.finish := by
  unfold State.finish
  split
  · exact s.onward_audio.trans (.of_frame (ps := [.strobes]) (.setStrobes (by decide) (.refl _ _) _) (by decide))
  · exact .refl s

/-- What a move finds has the script one move shorter. -/
theorem Finds.onward {s u : State} (hf : Finds s u) : Onward (s.setScript s.script.tail) u := by
  obtain ⟨q, n, hn, rfl⟩ := hf.eq
  exact ⟨rfl, rfl, le_rfl, le_rfl, le_rfl, hn⟩

theorem State.onward_takePress (s : State) (x k : Nibble) (popped after : List KeyEvent) :
    Onward s (s.takePress x k popped after) := .of_frame (s.onlyChanges_takePress x k popped after) (by decide)

theorem State.onward_afterP1 (s : State) : Onward s.atTick s.afterP1 := .of_frame s.afterP1_frame (by decide)

/-- R70, R164: a step takes its move off the script and goes onward from there. -/
theorem step_onward {s t : State} (h : step s = .next t) : Onward (s.setScript s.script.tail) t := by
  cases stepKind_of_next h with
  | illegal htick =>
    exact (Finds.tick htick).onward.trans
      (s.onward_afterP1.trans (.of_frame (State.onlyChanges_raise _ _ _) (by decide)))
  | cycle htick _ _ hx =>
    exact (Finds.tick htick).onward.trans (s.onward_afterP1.trans ((exec_onward hx).trans (State.onward_finish _)))
  | stopped htick => exact (Finds.tick htick).onward
  | queued hs => exact (Finds.key hs).onward
  | waits hf => exact hf.onward.trans (.of_frame (State.onlyChanges_drain_setRs _ _) (by decide))
  | resumes hf => exact hf.onward.trans ((State.onward_takePress _ _ _ _ _).trans (State.onward_finish _))
  | rebooted hs => exact ⟨rfl, by rw [hs]; rfl, le_rfl, le_rfl, le_rfl, le_rfl⟩

/-- Settles O19, by the kinds of step. -/
theorem stepKeepsParametersAndTimeGoesForward : Obligations.StepKeepsParametersAndTimeGoesForward := by
  intro s t h
  obtain ⟨hcfg, hscript, hclock, hnow, hrnd, htick⟩ := step_onward h
  exact ⟨hcfg, hscript, hclock, hnow, hrnd, htick⟩

end Sys2Proof.Machine
end

section
/-! SUPPORT. The step on a tick of a machine that does not wait, and on a key event outside a wait
(40_cycle_and_control.md R70, R72; 60_exceptions.md R151, R160, R163): the two ends of a cycle, the timers, and the
obligations on these steps. -/

namespace Sys2Proof.Machine

/-- A tick is no other move. -/
theorem State.ticksNext.eq_tick {s : State} (h : s.ticksNext) {m : EnvMove} {r : List EnvMove} (hm : s.script = m :: r) :
    m = .tick := by
  rcases h with h | ⟨r', h⟩ <;> rw [h] at hm <;> cases hm
  rfl

/-- The two ends of a running machine's cycle. -/
theorem cycle_cases {s t : State} (hr : s.rs = .running) (htick : s.ticksNext) (h : step s = .next t) :
    (decode s.fetch = none ∧ t = s.afterP1.raise .illegalOpcode s.fetch) ∨
    ∃ i u, decode s.fetch = some i ∧ exec i s.afterP1 = .next u ∧ t = u.finish := by
  cases hd : decode s.fetch with
  | none =>
    rw [step_of_illegal htick hr hd] at h
    cases h
    exact .inl ⟨rfl, rfl⟩
  | some i =>
    obtain ⟨u, hx⟩ := exec_isNext i s.afterP1
    rw [step_of_decode hr htick hd hx] at h
    cases h
    exact .inr ⟨i, u, rfl, hx, rfl⟩

/-- Settles O6: P5 and P6 are what the end of a cycle adds, and only to a machine still running. -/
theorem stepRunsTheDecodedInstruction : Obligations.StepRunsTheDecodedInstruction := by
  intro s i hr htick hd
  obtain ⟨t, hx⟩ := exec_isNext i s.afterP1
  have hstep : step s = .next t.finish := step_of_decode hr htick hd hx
  refine ⟨t, hx, fun hrun => ?_, fun hstop => ?_⟩
  · rw [hstep, State.finish, if_pos hrun]
  · rw [hstep, State.finish_of_not_running hstop]

/-- With no move fixed, the arrivals are the free events as they come. -/
theorem State.arrivals_of_no_script {s : State} (h : s.script = []) :
    s.arrivals.map (fun e => (e.key, e.pressed)) = Config.keyArrivals s.tickIndex := by
  unfold State.arrivals
  rw [h, List.map_map]
  exact List.map_id _

/-- Settles O8: what a tick finds, field by field. -/
theorem tickFindsTheKeysThatCameBeforeIt : Obligations.TickFindsTheKeysThatCameBeforeIt := fun s _ =>
  ⟨rfl, State.arrivals_of_script, State.arrivals_of_no_script, rfl, fun h => .inl (congrArg List.tail h), rfl,
    s.atTick_onlyChanges⟩

theorem exec_keeps_dt {i : Instr} {s t : State} (h : exec i s = .next t) (hi : ∀ x, i ≠ .ldDtVx x) : t.dt = s.dt := by
  refine exec_frame h .dt ?_
  cases i
  case ldDtVx x => exact absurd rfl (hi x)
  all_goals simp [mayWrite]

theorem exec_keeps_st {i : Instr} {s t : State} (h : exec i s = .next t) (hi : ∀ x, i ≠ .ldStVx x) : t.st = s.st := by
  refine exec_frame h .st ?_
  cases i
  case ldStVx x => exact absurd rfl (hi x)
  all_goals simp [mayWrite]

theorem State.finish_st (s : State) : s.finish.st = s.st := s.finish_frame .st (by decide)

theorem State.toNat_afterP1_st (s : State) : s.afterP1.st.toNat = s.st.toNat - 1 := toNat_timerDown s.st

/-- R160: a cycle leaves DT as P1 left it unless its instruction sets it. -/
theorem dt_of_cycle {s t : State} (hr : s.rs = .running) (htick : s.ticksNext) (h : step s = .next t)
    (hi : ∀ x, decode s.fetch ≠ some (.ldDtVx x)) : t.dt = s.afterP1.dt := by
  rcases cycle_cases hr htick h with ⟨-, rfl⟩ | ⟨i, u, hd, hx, rfl⟩
  · rfl
  · exact (u.finish_dt).trans (exec_keeps_dt hx fun x hix => hi x (by rw [hd, hix]))

/-- R160: a cycle leaves ST as P1 left it unless its instruction sets it. -/
theorem st_of_cycle {s t : State} (hr : s.rs = .running) (htick : s.ticksNext) (h : step s = .next t)
    (hi : ∀ x, decode s.fetch ≠ some (.ldStVx x)) : t.st = s.afterP1.st := by
  rcases cycle_cases hr htick h with ⟨-, rfl⟩ | ⟨i, u, hd, hx, rfl⟩
  · rfl
  · exact (u.finish_st).trans (exec_keeps_st hx fun x hix => hi x (by rw [hd, hix]))

/-- 44_keypad_and_timers.md R137, 40_cycle_and_control.md R72: outside a cycle a tick moves no timer. -/
theorem timers_of_tick_outside_running {s t : State} (hr : s.rs ≠ .running) (htick : s.ticksNext) (h : step s = .next t) :
    t.dt = s.dt ∧ t.st = s.st := by
  cases stepKind_of_next h with
  | illegal _ hrun | cycle _ hrun => exact absurd hrun hr
  | stopped => exact ⟨rfl, rfl⟩
  | queued hs | rebooted hs => cases htick.eq_tick hs
  | waits hf =>
    obtain ⟨q, n, -, rfl⟩ := hf.eq
    exact ⟨rfl, rfl⟩
  | resumes hf =>
    obtain ⟨q, n, -, rfl⟩ := hf.eq
    exact ⟨State.finish_dt _, State.finish_st _⟩

/-- A tick always answers a next state. -/
theorem step_isNext_of_tick {s : State} (htick : s.ticksNext) : ∃ t, step s = .next t := by
  rcases stepStopsOnlyForAnOverlongImage s with h | ⟨image, r, hs, -⟩
  · exact h
  · cases htick.eq_tick hs

/-- Settles O9: P1 is the decrement, and only a cycle runs it. -/
theorem timersFallByOnePerCycleAndStopAtZero : Obligations.TimersFallByOnePerCycleAndStopAtZero := by
  intro s htick
  obtain ⟨t, ht⟩ := step_isNext_of_tick htick
  refine ⟨t, ht, fun hr hi => ?_, fun hr hi => ?_, fun _ => ⟨s.toNat_afterP1_dt, s.toNat_afterP1_st, s.afterP1_frame⟩,
    fun hr => timers_of_tick_outside_running hr htick ht⟩
  · rw [dt_of_cycle hr htick ht hi, s.toNat_afterP1_dt]
  · rw [st_of_cycle hr htick ht hi, s.toNat_afterP1_st]

/-- Settles O10: after P1 the cycle is the raise of the exception. -/
theorem illegalWordEntersFatal : Obligations.IllegalWordEntersFatal := fun s hr htick hd =>
  ⟨_, step_of_illegal htick hr hd, rfl, rfl, rfl, s.toNat_afterP1_dt, s.toNat_afterP1_st, rfl,
    (s.afterP1_frame.mono (by simp)).trans ((State.onlyChanges_raise _ _ _).mono (by simp))⟩

/-- Settles O11: the three steps are the state the tick finds. -/
theorem tickOutsideRunningChangesNothing : Obligations.TickOutsideRunningChangesNothing := by
  intro s htick hr
  have hstep : step s = .next s.atTick := by
    rcases hr with hr | hr | ⟨hr, hkq⟩
    · exact step_of_stopped htick (.inl hr)
    · exact step_of_stopped htick (.inr hr)
    · rw [step_of_waiting hr htick, resumeWait, hkq]
  exact ⟨s.atTick, hstep, rfl, rfl, rfl, .refl _ _, s.atTick_onlyChanges⟩

/-- Settles O13: the step is the state the event finds. -/
theorem keyEventIsQueuedInOrder : Obligations.KeyEventIsQueuedInOrder := fun s e r hs hr =>
  ⟨_, step_of_key_queued hs hr, rfl, rfl, rfl, s.atKey_onlyChanges e r⟩

end Sys2Proof.Machine
end

section
/-! SUPPORT. The wait of LD Vx, K (44_keypad_and_timers.md R135, R137; 40_cycle_and_control.md R70, R72): what a move
finds, what a wait that goes on and a wait that ends leave, and the obligations on the wait, the render strobe and the
audio. -/

namespace Sys2Proof.Machine

/-- A part known to be as before may be left out of a frame. -/
theorem OnlyChanges.drop {p : Part} {ps : List Part} {s t : State} (h : OnlyChanges (p :: ps) s t) (hp : p.Same s t) :
    OnlyChanges ps s t := by
  intro q hq
  by_cases hqp : q = p
  · exact hqp ▸ hp
  · exact h q (by simp [hqp, hq])

/-- The register index a blocked Fx0A reads again is its own, whatever the move that finds it (10_state.md R22). -/
theorem Finds.opX_fetch {s u : State} (hf : Finds s u) {x : Nibble} (hd : decode s.fetch = some (.ldVxK x)) :
    opX u.fetch = x := by
  obtain ⟨q, n, -, rfl⟩ := hf.eq
  exact opX_of_decode_ldVxK hd

/-- R161, R162: P6 renders a cycle that completed. -/
theorem State.finish_render {s : State} (hr : s.rs = .running) : s.finish.strobes.render = true := by
  rw [State.finish, if_pos hr]
  rfl

theorem State.finish_rs (s : State) : s.finish.rs = s.rs := s.finish_frame .rs (by decide)

/-- R162: with no strobe emitted before P5, the render strobe is on exactly when the cycle completed. -/
theorem State.finish_render_iff {s : State} (hs : s.strobes = Strobes.none) :
    s.finish.strobes.render = true ↔ s.finish.rs = .running := by
  rw [State.finish_rs]
  refine ⟨fun h => ?_, State.finish_render⟩
  by_contra hr
  rw [State.finish_of_not_running hr, hs] at h
  cases h

/-- R135: a wait that a press ends, from what the move found. -/
theorem step_of_wait_press {s u : State} {x k : Nibble} {before after : List KeyEvent} (hf : Finds s u)
    (hr : s.rs = .waitKey) (hd : decode s.fetch = some (.ldVxK x)) (hq : u.kq = before ++ KeyEvent.mk k true :: after)
    (hb : ∀ e ∈ before, e.pressed = false) :
    step s = .next (u.takePress x k (before ++ [KeyEvent.mk k true]) after).finish := by
  rw [step_of_wait hf hr, resumeWait_of_press hq hb, hf.opX_fetch hd]

/-- R135, R137: a wait that goes on, from what the move found. -/
theorem step_of_wait_releases {s u : State} (hf : Finds s u) (hr : s.rs = .waitKey) (hq : ∀ e ∈ u.kq, e.pressed = false) :
    step s = .next (u.drain.setRs .waitKey) := by
  rw [step_of_wait hf hr, resumeWait_of_releases (hf.rs_eq.trans hr) hq]

section resumed
variable {s u : State} (hf : Finds s u) (x k : Nibble) (popped after : List KeyEvent)
include hf

theorem Finds.regsKept_resumed : RegsKeptExcept [x] s (u.takePress x k popped after).finish := by
  intro r hr
  rw [State.finish_reg, u.regsKeptExcept_takePress x k popped after r hr]
  exact hf.frame .v (by decide) r

theorem Finds.keyDown_resumed (j : Nibble) :
    keyDown (u.takePress x k popped after).finish.kp j = LatchAfter s popped j := by
  obtain ⟨q, n, -, rfl⟩ := hf.eq
  exact (State.finish_frame _ .kp (by decide) j).trans (State.keyDown_takePress _ x k popped after j)

/-- R161: P5 of the resumed cycle decides by ST, AP, SST and the clock as the wait left them. -/
theorem Finds.audioDecided_resumed : AudioDecided s (u.takePress x k popped after).finish := by
  obtain ⟨q, n, -, rfl⟩ := hf.eq
  exact (State.finish_audioDecided rfl rfl).of_eq rfl rfl rfl rfl rfl

theorem Finds.timers_resumed :
    (u.takePress x k popped after).finish.dt = s.dt ∧ (u.takePress x k popped after).finish.st = s.st ∧
      (u.takePress x k popped after).finish.sst = s.sst := by
  obtain ⟨q, n, -, rfl⟩ := hf.eq
  exact ⟨State.finish_dt _, State.finish_st _, State.finish_frame _ .sst (by decide)⟩

theorem Finds.pc_resumed : (u.takePress x k popped after).finish.pc = s.pc + 2#12 := by
  obtain ⟨q, n, -, rfl⟩ := hf.eq
  exact State.finish_frame _ .pc (by decide)

end resumed

theorem State.toNat_reg_resumed (u : State) (x k : Nibble) (popped after : List KeyEvent) :
    ((u.takePress x k popped after).finish.reg x).toNat = k.toNat := by
  rw [State.finish_reg, State.toNat_reg_takePress]

theorem State.kq_resumed (u : State) (x k : Nibble) (popped after : List KeyEvent) :
    (u.takePress x k popped after).finish.kq = after := State.finish_frame _ .kq (by decide)

theorem State.rs_resumed (u : State) (x k : Nibble) (popped after : List KeyEvent) :
    (u.takePress x k popped after).finish.rs = .running := State.finish_rs _

theorem State.render_resumed (u : State) (x k : Nibble) (popped after : List KeyEvent) :
    (u.takePress x k popped after).finish.strobes.render = true := State.finish_render rfl

theorem State.onlyChanges_resumed (u : State) (x k : Nibble) (popped after : List KeyEvent) :
    OnlyChanges [.v, .kp, .kq, .rs, .pc, .ap, .strobes, .nowIndex, .clock] u (u.takePress x k popped after).finish :=
  ((u.onlyChanges_takePress x k popped after).mono (by simp)).trans ((State.finish_frame _).mono (by simp))

/-- A queue with a first press has a press, and one without has none. -/
theorem exists_press_of_eq {q before after : List KeyEvent} {k : Nibble} (hq : q = before ++ KeyEvent.mk k true :: after) :
    ∃ e ∈ q, e.pressed = true := ⟨⟨k, true⟩, by simp [hq], rfl⟩

theorem not_exists_press {q : List KeyEvent} (h : ∀ e ∈ q, e.pressed = false) : ¬ ∃ e ∈ q, e.pressed = true := by
  rintro ⟨e, he, hp⟩
  rw [h e he] at hp
  cases hp

/-- Settles O12: the tick takes the first press, or drains the releases. -/
theorem waitEndsExactlyWhenAPressComes : Obligations.WaitEndsExactlyWhenAPressComes := by
  intro s x hr hd htick
  have hf : Finds s s.atTick := .tick htick
  rcases queue_cases (s.kq ++ s.arrivals) with hq | ⟨before, k, after, hq, hb⟩
  · have hnone := not_exists_press hq
    have hframe : OnlyChanges [.kp, .kq, .strobes, .script, .tickIndex] s (s.atTick.drain.setRs .waitKey) :=
      OnlyChanges.drop (p := .rs)
        ((hf.frame.mono (by simp)).trans ((State.onlyChanges_drain_setRs _ _).mono (by simp))) hr.symm
    refine ⟨_, step_of_wait_releases hf hr hq, rfl, rfl, iff_of_false (by simp) hnone, iff_of_true rfl hq,
      fun k before after hq' _ => absurd (exists_press_of_eq hq') hnone,
      fun _ => ⟨rfl, fun j => keyDown_foldl _ s.kp j, rfl, hframe⟩⟩
  · have hpress := exists_press_of_eq hq
    have hnot : ¬ ∀ e ∈ s.kq ++ s.arrivals, e.pressed = false := fun h => not_exists_press h hpress
    obtain ⟨hdt, hst, -⟩ := hf.timers_resumed x k (before ++ [⟨k, true⟩]) after
    have hstep := step_of_wait_press hf hr hd hq hb
    refine ⟨_, hstep, hdt, hst, iff_of_true (State.rs_resumed _ _ _ _ _) hpress,
      iff_of_false (by rw [State.rs_resumed]; simp) hnot, fun k' before' after' hq' hb' => ?_, fun h => absurd h hnot⟩
    rw [← Host.Outcome.next.inj ((step_of_wait_press hf hr hd hq' hb').symm.trans hstep)]
    refine ⟨State.toNat_reg_resumed _ x k' _ _, hf.regsKept_resumed x k' _ _, State.kq_resumed _ _ _ _ _,
      hf.keyDown_resumed x k' _ _, ?_, hf.audioDecided_resumed x k' _ _, State.render_resumed _ _ _ _ _,
      (hf.frame.mono (by simp)).trans ((State.onlyChanges_resumed _ x k' _ _).mono (by simp))⟩
    rw [hf.pc_resumed]
    exact BitVec.toNat_add s.pc 2#12

/-- One press: its key is down, every other key is as before (R130). -/
theorem latchAfter_single (s : State) (e : KeyEvent) (j : Nibble) :
    LatchAfter s [e] j = if j = e.key then e.pressed else keyDown s.kp j := by
  unfold LatchAfter
  rw [← keyDown_foldl]
  exact keyDown_applyKey s.kp e j

/-- Settles O14: a press that arrives is the first of the queue, and the wait resumed takes it. -/
theorem pressEndsTheWait : Obligations.PressEndsTheWait := by
  intro s x k r hr hkq hd hs
  have hf : Finds s (s.atKey ⟨k, true⟩ r) := .key hs
  have hq : (s.atKey ⟨k, true⟩ r).kq = [] ++ KeyEvent.mk k true :: [] := congrArg (· ++ [KeyEvent.mk k true]) hkq
  have hlatch (j : Nibble) := (hf.keyDown_resumed x k ([] ++ [⟨k, true⟩]) [] j).trans (latchAfter_single s _ j)
  obtain ⟨hdt, hst, -⟩ := hf.timers_resumed x k ([] ++ [⟨k, true⟩]) []
  have hframe : OnlyChanges [.v, .kp, .rs, .pc, .ap, .strobes, .script, .nowIndex, .clock] s _ :=
    OnlyChanges.drop (p := .kq)
      (((s.atKey_onlyChanges ⟨k, true⟩ r).mono (by simp)).trans
        ((State.onlyChanges_resumed _ x k ([] ++ [⟨k, true⟩]) []).mono (by simp)))
      ((State.kq_resumed _ x k _ []).trans hkq.symm)
  exact ⟨_, step_of_wait_press hf hr hd hq (by simp), State.rs_resumed _ _ _ _ _, State.toNat_reg_resumed _ x k _ _,
    hf.regsKept_resumed x k _ _, (hlatch k).trans (if_pos rfl), fun j hj => (hlatch j).trans (if_neg hj),
    State.kq_resumed _ _ _ _ _, hf.pc_resumed x k _ _, hdt, hst, hf.audioDecided_resumed x k _ _,
    State.render_resumed _ _ _ _ _, hframe⟩

/-- Settles O15: a release that arrives is the only event of the queue, and is drained. -/
theorem releaseKeepsTheWait : Obligations.ReleaseKeepsTheWait := by
  intro s x k r hr hkq _ hs
  have hf : Finds s (s.atKey ⟨k, false⟩ r) := .key hs
  have hq : (s.atKey ⟨k, false⟩ r).kq = [⟨k, false⟩] := congrArg (· ++ [KeyEvent.mk k false]) hkq
  have hlatch (j : Nibble) : keyDown (s.atKey ⟨k, false⟩ r).drain.kp j = if j = k then false else keyDown s.kp j := by
    rw [State.keyDown_drain, hq]
    exact latchAfter_single s _ j
  have hframe : OnlyChanges [.kp, .strobes, .script] s ((s.atKey ⟨k, false⟩ r).drain.setRs .waitKey) :=
    OnlyChanges.drop (p := .rs)
      (OnlyChanges.drop (p := .kq)
        (((s.atKey_onlyChanges ⟨k, false⟩ r).mono (by simp)).trans ((State.onlyChanges_drain_setRs _ _).mono (by simp)))
        hkq.symm)
      hr.symm
  exact ⟨_, step_of_wait_releases hf hr (by simp [hq]), rfl, (hlatch k).trans (if_pos rfl),
    fun j hj => (hlatch j).trans (if_neg hj), rfl, rfl, hframe⟩

/-- R162: the step of a waiting machine renders exactly when it ends the wait, and that exactly when a press was found. -/
theorem wait_renders_iff {s u : State} (hf : Finds s u) (hr : s.rs = .waitKey) :
    ∃ t, step s = .next t ∧ (t.strobes.render = true ↔ t.rs = .running) ∧
      (t.strobes.render = true ↔ ∃ e ∈ u.kq, e.pressed = true) := by
  rcases queue_cases u.kq with hq | ⟨before, k, after, hq, hb⟩
  · have hsilent : (u.drain.setRs .waitKey).strobes = Strobes.none := hf.strobes_eq
    have hdark : ¬ (u.drain.setRs .waitKey).strobes.render = true := by rw [hsilent]; decide
    exact ⟨_, step_of_wait_releases hf hr hq, iff_of_false hdark (by simp), iff_of_false hdark (not_exists_press hq)⟩
  · refine ⟨_, (step_of_wait hf hr).trans (resumeWait_of_press hq hb), ?_, ?_⟩
    · exact iff_of_true (State.render_resumed _ _ _ _ _) (State.rs_resumed _ _ _ _ _)
    · exact iff_of_true (State.render_resumed _ _ _ _ _) (exists_press_of_eq hq)

/-- R162: P4 emits no strobe, so what a cycle renders is P6's. -/
theorem exec_strobes {i : Instr} {s t : State} (h : exec i s = .next t) : t.strobes = s.strobes := by
  refine exec_frame h .strobes ?_
  cases i <;> simp [mayWrite]

/-- Settles O16, by the kinds of step. -/
theorem renderStrobeOncePerCompletedCycle : Obligations.RenderStrobeOncePerCompletedCycle := by
  refine ⟨fun s hr htick => ?cycle, fun s hr htick => wait_renders_iff (.tick htick) hr, fun s hr htick => ?stopped,
    fun s e r hr hs => wait_renders_iff (.key hs) hr, fun s e r hr hs => ?queued, fun s image r hs hlen => ?reset⟩
  case cycle =>
    obtain ⟨t, ht⟩ := step_isNext_of_tick htick
    refine ⟨t, ht, ?_⟩
    rcases cycle_cases hr htick ht with ⟨-, rfl⟩ | ⟨i, u, -, hx, rfl⟩
    · exact iff_of_false (by simp [State.afterP1, Strobes.none]) (by simp)
    · exact State.finish_render_iff (exec_strobes hx)
  case stopped => exact ⟨_, step_of_stopped htick hr, rfl⟩
  case queued => exact ⟨_, step_of_key_queued hs hr, rfl⟩
  case reset => exact ⟨_, step_of_reset_le hs hlen, rfl⟩

/-- R161: a wait that finds a press ends, and P5 decides as the wait left the timers and the audio. -/
theorem wait_audioDecided {s u : State} {x : Nibble} (hf : Finds s u) (hr : s.rs = .waitKey)
    (hd : decode s.fetch = some (.ldVxK x)) (hpress : ∃ e ∈ u.kq, e.pressed = true) :
    ∃ t, step s = .next t ∧ t.rs = .running ∧ t.st = s.st ∧ t.sst = s.sst ∧ AudioDecided s t := by
  rcases queue_cases u.kq with hq | ⟨before, k, after, hq, hb⟩
  · exact absurd hpress (not_exists_press hq)
  · obtain ⟨-, hst, hsst⟩ := hf.timers_resumed x k (before ++ [⟨k, true⟩]) after
    exact ⟨_, step_of_wait_press hf hr hd hq hb, State.rs_resumed _ _ _ _ _, hst, hsst, hf.audioDecided_resumed x k _ _⟩

/-- Settles O17: P5 and P6 after a whole cycle, and after a wait that a move ends. -/
theorem audioFollowsTheSoundTimer : Obligations.AudioFollowsTheSoundTimer := by
  refine ⟨fun s u i hr htick hd hx hrun => ?cycle, fun s x k r hr hd hs => ?key,
    fun s x hr hd htick hpress => wait_audioDecided (.tick htick) hr hd hpress⟩
  case cycle =>
    exact ⟨_, step_of_decode hr htick hd hx, u.finish_frame, State.finish_audioDecided hrun (exec_strobes hx)⟩
  case key => exact wait_audioDecided (.key hs) hr hd ⟨⟨k, true⟩, by simp [State.atKey], rfl⟩

end Sys2Proof.Machine
end

section
/-! SUPPORT. The invariant of a run (20_memory.md R30, 10_state.md R14, R22, 60_exceptions.md R150, R161, R164): what P4
relies on and keeps, how P5 completes it, and the obligation that every step keeps it. -/

namespace Sys2Proof.Machine

/-- What a step relies on between the move it finds and its end: no strobe has been emitted, and the clauses of the
invariant on memory, SST and the stack hold. -/
structure State.Ready (s : State) : Prop where
  memWf : Memory.wf s.mem = true
  sstPast : s.sst ≤ s.clock
  depth : ∀ d, s.cfg.stackDepth = some d → s.sp ≤ d
  silent : s.strobes = Strobes.none

/-- A step that ends with no strobe meets the invariant if what it leaves of a wait, a cause and the sound timer does. -/
theorem State.Ready.inv {s : State} (h : s.Ready)
    (hwait : s.rs = .waitKey → s.kq = [] ∧ ∃ x, decode s.fetch = some (.ldVxK x))
    (hcause : s.rs = .fatal → ∃ e : Exc, s.fcause = e.code) (hsound : 0 < s.st.toNat → s.ap = true) : s.Inv where
  memWf := h.memWf
  sstPast := h.sstPast
  waitAtKey := hwait
  depth := h.depth
  quiet := fun _ => h.silent
  cause := hcause
  sounding := hsound
  playOn := fun hp => by rw [h.silent] at hp; cases hp
  pauseOff := fun hp => by rw [h.silent] at hp; cases hp

/-- R161: the audio and the strobes P5 leaves are as the invariant asks. -/
theorem AudioDecided.sounds {u t : State} (h : AudioDecided u t) :
    (0 < u.st.toNat → t.ap = true) ∧ (t.strobes.play = true → t.ap = true) ∧
      (t.strobes.pause = true → t.ap = false) := by
  obtain ⟨hon, hsilent, hhold⟩ := h
  rcases Nat.eq_zero_or_pos u.st.toNat with hst | hst
  · cases hap : u.ap
    · obtain ⟨h1, h2, -⟩ := hsilent hst hap
      simp [hst, h1, h2]
    · obtain ⟨-, hplay, hpause, hkeep⟩ := hhold hst hap
      rcases Nat.lt_or_ge t.clock (u.sst + Config.holdMs) with hc | hc
      · simp [hst, hplay, hkeep hc]
      · simp [hst, hplay, hpause hc]
  · obtain ⟨h1, -, h3⟩ := hon hst
    simp [h1, h3]

/-- P5 and P6 complete the invariant of a cycle that goes on. -/
theorem State.Ready.inv_finish {s : State} (h : s.Ready) (hr : s.rs = .running) : s.finish.Inv := by
  obtain ⟨hsound, hplay, hpause⟩ := (State.finish_audioDecided hr h.silent).sounds
  have hrun : s.finish.rs = .running := s.finish_rs.trans hr
  have hsst : s.finish.sst = s.sst := s.finish_frame .sst (by decide)
  have hsp : s.finish.sp = s.sp := (s.finish_frame .stack (by decide)).1
  exact {
    memWf := by rw [s.finish_mem]; exact h.memWf
    sstPast := by rw [hsst]; exact h.sstPast.trans s.onward_finish.clock
    waitAtKey := fun hw => by rw [hrun] at hw; cases hw
    depth := by rw [s.onward_finish.cfg, hsp]; exact h.depth
    quiet := fun hne => absurd hrun hne
    cause := fun hfatal => by rw [hrun] at hfatal; cases hfatal
    sounding := by rw [s.finish_st]; exact hsound
    playOn := hplay
    pauseOff := hpause }

/-! P4 keeps what it relies on. -/

theorem State.wf_storeAll {s : State} (h : Memory.wf s.mem = true) (bs : List Byte) :
    Memory.wf (s.storeAll bs).mem = true := by
  rcases s.storeAll_cases bs with ⟨a, -, -, hs⟩ | hs <;> rw [hs]
  · exact h
  · obtain ⟨m, hm, hwf⟩ := State.storeBytes_eq_setMem bs s 0
    rw [hm]
    exact hwf h

/-- 20_memory.md R40: only the two stores write memory, and a store keeps it canonical. -/
theorem exec_memWf {i : Instr} {s t : State} (hx : exec i s = .next t) (h : Memory.wf s.mem = true) :
    Memory.wf t.mem = true := by
  cases i
  case ret =>
    rcases exec_ret_next hx with ⟨-, rfl⟩ | ⟨a, rest, -, rfl⟩ <;> exact h
  case call nnn =>
    rcases exec_call_next hx with ⟨-, rfl⟩ | ⟨-, rfl⟩ <;> exact h
  case ldVxK x =>
    rcases exec_ldVxK_next hx with ⟨-, rfl⟩ | ⟨before, k, after, -, -, rfl⟩ <;> exact h
  all_goals obtain rfl := Host.Outcome.next.inj hx
  case seImm | sneImm | seReg | sneReg => rw [State.skipIf_eq]; exact h
  case skp x | sknp x =>
    rcases keyTest_cases _ x s with ⟨-, h'⟩ | ⟨-, h'⟩ <;> rw [h']
    · exact h
    · rw [State.skipIf_eq]; exact h
  case ldB | ldMemVx => exact State.wf_storeAll h _
  case ldVxMem x =>
    obtain ⟨v, hv⟩ := s.loadRegs_eq_withV (x.toNat + 1)
    rw [hv]
    exact h
  all_goals exact h

/-- 60_exceptions.md R153: CALL pushes only where there is room. -/
theorem exec_depth {i : Instr} {s t : State} (hx : exec i s = .next t)
    (h : ∀ d, s.cfg.stackDepth = some d → s.sp ≤ d) : ∀ d, t.cfg.stackDepth = some d → t.sp ≤ d := by
  rw [(exec_onward hx).cfg]
  intro d hd
  have hkept : .stack ∉ mayWrite i → t.sp ≤ d := fun hstack => ((exec_frame hx .stack hstack).1).trans_le (h d hd)
  cases i
  case ret =>
    rcases exec_ret_next hx with ⟨-, rfl⟩ | ⟨a, rest, hs, rfl⟩
    · exact h d hd
    · have hle := h d hd
      rw [State.sp, hs] at hle
      exact (Nat.le_succ _).trans hle
  case call nnn =>
    rcases exec_call_next hx with ⟨-, rfl⟩ | ⟨hroom, rfl⟩
    · exact h d hd
    · exact s.stackFull_eq_false_iff.mp hroom d hd
  all_goals exact hkept (by simp [mayWrite])

/-- 44_keypad_and_timers.md R141: SST is written with the time just read. -/
theorem exec_sstPast {i : Instr} {s t : State} (hx : exec i s = .next t) (h : s.sst ≤ s.clock) : t.sst ≤ t.clock := by
  cases i
  case ldStVx =>
    obtain rfl := Host.Outcome.next.inj hx
    exact le_rfl
  all_goals
    have hsst := exec_frame hx .sst (by simp [mayWrite])
    exact (le_of_eq hsst).trans (h.trans (exec_onward hx).clock)

theorem exec_ready {i : Instr} {s t : State} (hx : exec i s = .next t) (h : s.Ready) : t.Ready :=
  ⟨exec_memWf hx h.memWf, exec_sstPast hx h.sstPast, exec_depth hx h.depth, (exec_strobes hx).trans h.silent⟩

theorem Finds.ready {s u : State} (hf : Finds s u) (h : s.Inv) : u.Ready := by
  obtain ⟨q, n, -, rfl⟩ := hf.eq
  exact ⟨h.memWf, h.sstPast, h.depth, rfl⟩

/-- What the state P1 left holds of the invariant. -/
theorem State.Inv.ready_afterP1 {s : State} (h : s.Inv) : s.afterP1.Ready := ⟨h.memWf, h.sstPast, h.depth, rfl⟩

/-- P1 starts no sound. -/
theorem State.Inv.sounding_afterP1 {s : State} (h : s.Inv) (hst : 0 < s.afterP1.st.toNat) : s.afterP1.ap = true := by
  rw [s.toNat_afterP1_st] at hst
  exact h.sounding (by omega)

/-- A cycle keeps the invariant, by the ways P4 ends. -/
theorem inv_of_cycle {s t : State} {i : Instr} (h : s.Inv) (hr : s.rs = .running) (hd : decode s.fetch = some i)
    (hx : exec i s.afterP1 = .next t) : t.finish.Inv := by
  have hready := exec_ready hx h.ready_afterP1
  rcases exec_ends hx with ⟨hrs, -⟩ | ⟨-, -, rfl⟩ | ⟨e, w, rfl⟩ | ⟨x, rfl, rfl⟩
  · exact hready.inv_finish (hrs.elim (fun hkept => hkept.trans hr) id)
  · rw [State.finish_of_not_running (by simp)]
    exact hready.inv (fun hw => by cases hw) (fun hf => by cases hf) h.sounding_afterP1
  · rw [State.finish_of_not_running (by simp)]
    exact hready.inv (fun hw => by cases hw) (fun _ => ⟨e, rfl⟩) h.sounding_afterP1
  · rw [State.finish_of_not_running (by simp)]
    exact hready.inv (fun _ => ⟨rfl, x, hd⟩) (fun hf => by cases hf) h.sounding_afterP1

/-- Settles O23, by the kinds of step. -/
theorem stepKeepsTheInvariant : Obligations.StepKeepsTheInvariant := by
  intro s t h hstep
  cases stepKind_of_next hstep with
  | illegal =>
    have hready := h.ready_afterP1
    exact State.Ready.inv ⟨hready.memWf, hready.sstPast, hready.depth, hready.silent⟩ (fun hw => by cases hw)
      (fun _ => ⟨.illegalOpcode, rfl⟩) h.sounding_afterP1
  | cycle _ hr hd hx => exact inv_of_cycle h hr hd hx
  | stopped htick hr =>
    exact ((Finds.tick htick).ready h).inv (fun hw => by rcases hr with hr | hr <;> cases hr.symm.trans hw) h.cause h.sounding
  | queued hs hr => exact ((Finds.key hs).ready h).inv (fun hw => absurd hw hr) h.cause h.sounding
  | waits hf hr =>
    have hready := hf.ready h
    obtain ⟨-, hfx⟩ := h.waitAtKey hr
    obtain ⟨q, n, -, rfl⟩ := hf.eq
    exact State.Ready.inv ⟨hready.memWf, hready.sstPast, hready.depth, hready.silent⟩ (fun _ => ⟨rfl, hfx⟩)
      (fun hfatal => by cases hfatal) h.sounding
  | resumes hf =>
    have hready := hf.ready h
    exact State.Ready.inv_finish ⟨hready.memWf, hready.sstPast, hready.depth, hready.silent⟩ rfl
  | rebooted _ hlen => exact inv_of_reset_values s.cfg _ _ _ _ _ (wf_bootMemory s.cfg.font hlen)

end Sys2Proof.Machine
end

section
/-! SUPPORT. Bits 15 to 12 of I (10_state.md R12, 42_index_and_memory.md R110): an instruction reads I through effective
addresses only, so a machine whose I is another one with the same effective addresses does the same, and so does every
step. -/

namespace Sys2Proof.Machine

/-- Two values of I give the same effective addresses exactly when they agree modulo 4096 (R110). -/
theorem ea_eq_iff (i w : Word) : ea i = ea w ↔ i.toNat % 4096 = w.toNat % 4096 := by
  refine ⟨fun h => ?_, fun h => funext fun k => BitVec.eq_of_toNat_eq ?_⟩
  · have := congrArg BitVec.toNat (congrFun h 0)
    rw [toNat_ea, toNat_ea] at this
    omega
  · rw [toNat_ea, toNat_ea]
    omega

/-- The outcome `o` is the next state `t` but for I, which gives the same effective addresses. -/
def AlikeButI (t : State) (o : Host.Outcome State Fault Refusal) : Prop := ∃ w, ea t.i = ea w ∧ o = .next (t.setI w)

/-! The operations that read I. -/

section
variable {s : State} {w : Word}

theorem State.storeByte_setI (a : Addr) (b : Byte) : (s.setI w).storeByte a b = (s.storeByte a b).setI w := by
  unfold State.storeByte
  rw [State.setI_cfg]
  split <;> rfl

theorem State.storeByte_i (s : State) (a : Addr) (b : Byte) : (s.storeByte a b).i = s.i := by
  obtain ⟨m, hm, -⟩ := s.storeByte_eq_setMem a b
  rw [hm, State.setMem_i]

theorem State.storeBytes_setI (h : ea s.i = ea w) (k : Nat) (bs : List Byte) :
    (s.setI w).storeBytes k bs = (s.storeBytes k bs).setI w := by
  induction bs generalizing s k with
  | nil => rfl
  | cons b bs ih =>
    rw [State.storeBytes, State.storeBytes, State.setI_i, State.storeByte_setI, ← h]
    exact ih (by rwa [State.storeByte_i]) (k + 1)

theorem State.storeAll_setI (h : ea s.i = ea w) (bs : List Byte) : (s.setI w).storeAll bs = (s.storeAll bs).setI w := by
  have hfirst : firstFontAddr w bs.length = firstFontAddr s.i bs.length := by
    rw [firstFontAddr, firstFontAddr, storeAddrs, storeAddrs, h]
  unfold State.storeAll
  rw [State.setI_cfg, State.setI_i, hfirst, State.storeBytes_setI h]
  split <;> rfl

theorem State.loadRegs_setI (h : ea s.i = ea w) (n : Nat) : (s.setI w).loadRegs n = (s.loadRegs n).setI w := by
  induction n with
  | zero => rfl
  | succ n ih =>
    obtain ⟨v, hv⟩ := s.loadRegs_eq_withV n
    rw [State.loadRegs_succ, State.loadRegs_succ, ih, State.setI_i, ← h, hv]
    rfl

theorem drawSprite_setI (h : ea s.i = ea w) (x0 : Col) (y0 : Row) (n : Nat) :
    drawSprite (s.setI w) x0 y0 n = drawSprite s x0 y0 n := by
  unfold drawSprite
  rw [State.setI_i, ← h]
  rfl

theorem State.drawn_setI (h : ea s.i = ea w) (x y n : Nibble) : (s.setI w).drawn x y n = (s.drawn x y n).setI w := by
  unfold State.drawn
  rw [State.setI_reg, State.setI_reg, drawSprite_setI h]
  rfl

theorem State.skipIf_setI (s : State) (w : Word) (b : Bool) : (s.setI w).skipIf b = (s.skipIf b).setI w := by
  cases b <;> rfl

theorem keyTest_setI (wanted : Bool) (x : Nibble) : keyTest wanted x (s.setI w) = (keyTest wanted x s).setI w := by
  unfold keyTest
  rw [State.setI_cfg, State.setI_reg]
  split
  · rfl
  · exact State.skipIf_setI s.drain w _

/-- P4 from a state with another I of the same effective addresses. -/
theorem exec_setI (h : ea s.i = ea w) {i : Instr} {t : State} (hx : exec i s = .next t) :
    AlikeButI t (exec i (s.setI w)) := by
  have hkept : .i ∉ mayWrite i → exec i (s.setI w) = .next (t.setI w) → AlikeButI t (exec i (s.setI w)) :=
    fun hi hw => ⟨w, by rw [exec_frame hx .i hi]; exact h, hw⟩
  cases i
  case addI x =>
    obtain rfl := Host.Outcome.next.inj hx
    refine ⟨w + (s.reg x).setWidth 16, (ea_eq_iff _ _).mpr ?_, rfl⟩
    have hi := (ea_eq_iff _ _).mp h
    rw [State.advance_eq, State.setPc_i, State.setI_i, BitVec.toNat_add, BitVec.toNat_add]
    omega
  case ldI | ldF =>
    obtain rfl := Host.Outcome.next.inj hx
    exact ⟨_, rfl, rfl⟩
  all_goals refine hkept (by simp [mayWrite]) ?_
  case ret =>
    rcases exec_ret_next hx with ⟨hs, rfl⟩ | ⟨a, rest, hs, rfl⟩
    · exact exec_ret_of_nil (s := s.setI w) hs
    · exact exec_ret_of_cons (s := s.setI w) hs
  case call nnn =>
    rcases exec_call_next hx with ⟨hs, rfl⟩ | ⟨hs, rfl⟩
    · exact exec_call_of_full (s := s.setI w) hs nnn
    · exact exec_call_of_room (s := s.setI w) hs nnn
  case ldVxK x =>
    rcases exec_ldVxK_next hx with ⟨hq, rfl⟩ | ⟨before, k, after, hq, hb, rfl⟩
    · exact exec_ldVxK_of_releases x hq
    · exact exec_ldVxK_of_press x hq hb
  all_goals obtain rfl := Host.Outcome.next.inj hx
  case seImm | sneImm | seReg | sneReg => exact congrArg Host.Outcome.next (State.skipIf_setI s w _)
  case skp x | sknp x => exact congrArg Host.Outcome.next (keyTest_setI _ x)
  case ldB | ldMemVx => exact congrArg Host.Outcome.next (State.storeAll_setI h _)
  case ldVxMem => exact congrArg Host.Outcome.next (congrArg State.advance (State.loadRegs_setI h _))
  case drw x y n => exact congrArg Host.Outcome.next (State.drawn_setI h x y n)
  all_goals rfl

end

/-- P5 and P6 do not read I. -/
theorem State.audio_setI (s : State) (w : Word) : (s.setI w).audio = s.audio.setI w := by
  have hnow : (s.setI w).now = s.now := rfl
  unfold State.audio
  rw [State.setI_st, State.setI_ap, State.setI_sst, hnow]
  split_ifs <;> rfl

theorem State.finish_setI (s : State) (w : Word) : (s.setI w).finish = s.finish.setI w := by
  unfold State.finish
  rw [State.setI_rs, State.audio_setI]
  split <;> rfl

/-- A move finds the same but for I. -/
theorem Finds.setI {s u : State} (hf : Finds s u) (w : Word) : Finds (s.setI w) (u.setI w) := by
  cases hf with
  | tick h => exact .tick h
  | key h => exact .key (s := s.setI w) h

/-- A step from a state with another I of the same effective addresses. -/
theorem step_setI {s t : State} {w : Word} (h : ea s.i = ea w) (hstep : step s = .next t) :
    AlikeButI t (step (s.setI w)) := by
  cases stepKind_of_next hstep with
  | illegal htick hr hd => exact ⟨w, h, step_of_illegal (s := s.setI w) htick hr hd⟩
  | @cycle i u htick hr hd hx =>
    obtain ⟨w', hw', hx'⟩ := exec_setI (s := s.afterP1) h hx
    refine ⟨w', ?_, ?_⟩
    · rw [u.finish_frame .i (by decide)]
      exact hw'
    · rw [step_of_decode (s := s.setI w) hr htick hd hx', State.finish_setI]
  | stopped htick hr => exact ⟨w, h, step_of_stopped (s := s.setI w) htick hr⟩
  | queued hs hr => exact ⟨w, h, step_of_key_queued (s := s.setI w) hs hr⟩
  | waits hf hr hq =>
    refine ⟨w, ?_, step_of_wait_releases (hf.setI w) hr hq⟩
    exact (congrArg ea (hf.frame .i (by decide))).trans h
  | @resumes u k before after hf hr hq hb =>
    refine ⟨w, ?_, ?_⟩
    · rw [State.finish_frame _ .i (by decide)]
      exact (congrArg ea (hf.frame .i (by decide))).trans h
    · rw [step_of_wait (hf.setI w) hr, resumeWait_of_press (s := u.setI w) hq hb, ← State.finish_setI]
      rfl
  | rebooted hs hlen => exact ⟨_, rfl, step_of_reset_le (s := s.setI w) hs hlen⟩

/-- Settles O27: `s'` is `s` with another I of the same effective addresses. -/
theorem indexTopBitsAreUnobservable : Obligations.IndexTopBitsAreUnobservable := by
  rintro s s' ⟨hi, hs'⟩
  have hset : s' = s.setI s'.i := hs'
  have hea : ea s.i = ea s'.i := (ea_eq_iff _ _).mpr hi
  rw [hset]
  rcases stepStopsOnlyForAnOverlongImage s with ⟨t, ht⟩ | ⟨image, r, hs, hlen, ht⟩
  · obtain ⟨w, hw, ht'⟩ := step_setI hea ht
    exact .inl ⟨t, t.setI w, ht, ht', ⟨(ea_eq_iff _ _).mp hw, rfl⟩, rfl⟩
  · exact .inr ⟨_, ht, step_of_reset_gt (s := s.setI s'.i) hs hlen⟩

end Sys2Proof.Machine
end
